-- ==== Sys2Proof/Word.lean ====
section
/-! DEFINITION. The word types of DMXTX: command and response words, channel bytes, pin identifiers. -/

namespace Sys2Proof

/-- A command word or a response word: 32 parallel bits (30 R115, 10 R52). -/
abbrev Word := BitVec 32

/-- The value of one channel (10 R34). -/
abbrev Byte := BitVec 8

/-- An opaque pin identifier "representable in 16 bits" (00 R8). -/
abbrev PinId := BitVec 16

end Sys2Proof
end

