-- ==== Sys2Proof/Syntax.lean ====
section
/-! DEFINITION. The operations of DMXTX (00 R6): the nine host commands of 30 R117 and the ten engine operations of 30 R121,
one constructor for each row of spec/opcode_table.json, in the table's order. -/

namespace Sys2Proof

/-- The operations. Operands of host commands are the integers of 30 R116; the command word's bits are gone after decoding. -/
inductive Instr where
  /-- WRITE ch, val: write one channel (43 R260). -/
  | write (ch val : Int)
  /-- SETMAX ch: set the Active Channel Count (43 R261). -/
  | setmax (ch : Int)
  /-- SETPIN pin: record the output pin (42 R233). -/
  | setpin (pin : PinId)
  /-- START: begin continuous transmission (42 R230). -/
  | start
  /-- STARTSINGLE: begin single-shot transmission (42 R231). -/
  | startsingle
  /-- STOP: stop transmission (42 R232). -/
  | stop
  /-- READ ch: read one channel (43 R262). -/
  | read (ch : Int)
  /-- READMAX: read the Active Channel Count (43 R263). -/
  | readmax
  /-- STATUS: read the engine's status (43 R264). -/
  | status
  /-- TICK: tick entry (41 R181). -/
  | tick
  /-- SELECT: choose the next step or return (41 R182). -/
  | select
  /-- STEP_A: send break and start code (41 R183). -/
  | stepA
  /-- STEP_B: send one channel byte (41 R184). -/
  | stepB
  /-- ADVANCE: move the cursor (41 R186). -/
  | advance
  /-- BOUNDARY: frame-boundary mode check (41 R187). -/
  | boundary
  /-- RETURN: leave the tick (41 R188). -/
  | ret
  /-- TXBYTE v: transmit one byte (40 R153). -/
  | txbyte (v : Byte)
  /-- BREAK: hold the line low for the DMX break (40 R158). -/
  | brk
  /-- MAB: hold the line high for the mark-after-break (40 R159). -/
  | mab
deriving DecidableEq, Repr

/-- The name of an operation in the opcode table. -/
def Instr.mnemonic : Instr → String
  | .write _ _   => "WRITE"
  | .setmax _    => "SETMAX"
  | .setpin _    => "SETPIN"
  | .start       => "START"
  | .startsingle => "STARTSINGLE"
  | .stop        => "STOP"
  | .read _      => "READ"
  | .readmax     => "READMAX"
  | .status      => "STATUS"
  | .tick        => "TICK"
  | .select      => "SELECT"
  | .stepA       => "STEP_A"
  | .stepB       => "STEP_B"
  | .advance     => "ADVANCE"
  | .boundary    => "BOUNDARY"
  | .ret         => "RETURN"
  | .txbyte _    => "TXBYTE"
  | .brk         => "BREAK"
  | .mab         => "MAB"

/-- Host commands have a command word; engine operations have none and a host cannot issue them (30 R121). -/
def Instr.isHost : Instr → Bool
  | .write _ _ | .setmax _ | .setpin _ | .start | .startsingle | .stop | .read _ | .readmax | .status => true
  | .tick | .select | .stepA | .stepB | .advance | .boundary | .ret | .txbyte _ | .brk | .mab => false

/-- Why a word is no command (30 R119). Both are the fault IllegalCommand. -/
inductive Reject where
  /-- OP is 0x0 or 0xA to 0xF. -/
  | reservedOpcode
  /-- A field that 30 R118 marks 0 holds a nonzero bit. -/
  | nonzeroField
deriving DecidableEq, Repr

/-- A row of the encoding table of 30 R118: a word selects the mnemonic when `(CMD & mask) = pattern`. -/
structure EncodingRow where
  mnemonic : String
  pattern  : Word
  mask     : Word
deriving DecidableEq, Repr

end Sys2Proof
end

