-- ==== Sys2Proof/WellFormed.lean ====
section
/-! DEFINITION. Which operand values a command can carry. "An assembler refuses an operand outside its field's range; it never
truncates" (30 R122). -/

namespace Sys2Proof

/-- CH carries an integer in [-2048, 2047] (30 R116). -/
def chInRange (ch : Int) : Bool := decide (-2048 ≤ ch) && decide (ch ≤ 2047)

/-- WRITE's ARG carries an integer in [-32768, 32767] (30 R116). -/
def valInRange (val : Int) : Bool := decide (-32768 ≤ val) && decide (val ≤ 32767)

/-- The operands lie in the ranges of 30 R122. Pins and bytes are in range by their types. -/
def Instr.wellFormed : Instr → Bool
  | .write ch val => chInRange ch && valInRange val
  | .setmax ch    => chInRange ch
  | .read ch      => chInRange ch
  | .setpin _ | .start | .startsingle | .stop | .readmax | .status => true
  | .tick | .select | .stepA | .stepB | .advance | .boundary | .ret | .txbyte _ | .brk | .mab => true

end Sys2Proof
end

