-- ==== Sys2Proof/Decode.lean ====
section
/-! DEFINITION. From command words to operations and back (30 R115 to R122). Decoding is total: every 32-bit word is one of the
nine commands or is rejected by name (30 R120). -/

namespace Sys2Proof

/-- `sext_N(f)`: "f − 2^N if f[N−1] = 1, else f" (00 R10). -/
def sext {n : Nat} (f : BitVec n) : Int :=
  if f.msb then (f.toNat : Int) - 2 ^ n else (f.toNat : Int)

/-- OP = CMD[31:28], unsigned (30 R115). -/
def opField (w : Word) : Nat := (w.extractLsb' 28 4).toNat

/-- CH = CMD[27:16] (30 R115). -/
def chField (w : Word) : BitVec 12 := w.extractLsb' 16 12

/-- ARG = CMD[15:0] (30 R115). -/
def argField (w : Word) : BitVec 16 := w.extractLsb' 0 16

/-- The command `i` if the fields 30 R118 marks 0 are zero. -/
def ifZero (zero : Bool) (i : Instr) : Except Reject Instr :=
  if zero then .ok i else .error .nonzeroField

/-- The command a word stands for (30 R116 to R119). -/
def decode (w : Word) : Except Reject Instr :=
  match opField w with
  | 1 => .ok (.write (sext (chField w)) (sext (argField w)))
  | 2 => ifZero (argField w == 0) (.setmax (sext (chField w)))
  | 3 => ifZero (chField w == 0) (.setpin (argField w))
  | 4 => ifZero (chField w == 0 && argField w == 0) .start
  | 5 => ifZero (chField w == 0 && argField w == 0) .startsingle
  | 6 => ifZero (chField w == 0 && argField w == 0) .stop
  | 7 => ifZero (argField w == 0) (.read (sext (chField w)))
  | 8 => ifZero (chField w == 0 && argField w == 0) .readmax
  | 9 => ifZero (chField w == 0 && argField w == 0) .status
  | _ => .error .reservedOpcode

/-- The table of 30 R118. -/
def encodingTable : List EncodingRow :=
  [⟨"WRITE",       0x10000000, 0xF0000000⟩,
   ⟨"SETMAX",      0x20000000, 0xF000FFFF⟩,
   ⟨"SETPIN",      0x30000000, 0xFFFF0000⟩,
   ⟨"START",       0x40000000, 0xFFFFFFFF⟩,
   ⟨"STARTSINGLE", 0x50000000, 0xFFFFFFFF⟩,
   ⟨"STOP",        0x60000000, 0xFFFFFFFF⟩,
   ⟨"READ",        0x70000000, 0xF000FFFF⟩,
   ⟨"READMAX",     0x80000000, 0xFFFFFFFF⟩,
   ⟨"STATUS",      0x90000000, 0xFFFFFFFF⟩]

/-- "A word selects a mnemonic when (CMD & mask) = match" (30 R118). -/
def EncodingRow.selects (r : EncodingRow) (w : Word) : Bool := w &&& r.mask == r.pattern

/-- "CMD = (op << 28) | ((ch mod 4096) << 16) | (arg mod 65536)" (30 R122). -/
def assemble (op : Nat) (ch arg : Int) : Word :=
  BitVec.ofNat 32 (op * 2 ^ 28 + (ch % 4096).toNat * 2 ^ 16 + (arg % 65536).toNat)

/-- The word of a command whose operands are well formed; none for an ill-formed command, which an assembler refuses, and for an
engine operation, which has no encoding (30 R121, R122). -/
def encode (i : Instr) : Option Word :=
  if i.wellFormed then
    match i with
    | .write ch val => some (assemble 1 ch val)
    | .setmax ch    => some (assemble 2 ch 0)
    | .setpin pin   => some (assemble 3 0 pin.toNat)
    | .start        => some (assemble 4 0 0)
    | .startsingle  => some (assemble 5 0 0)
    | .stop         => some (assemble 6 0 0)
    | .read ch      => some (assemble 7 ch 0)
    | .readmax      => some (assemble 8 0 0)
    | .status       => some (assemble 9 0 0)
    | .tick | .select | .stepA | .stepB | .advance | .boundary | .ret | .txbyte _ | .brk | .mab => none
  else none

/-- The command word that an opcode-table row's `nbits` bits `w` stand for: command words are 32 parallel bits, so no byte order
enters (20 R84); bits above `nbits` are 0. -/
def tableWord (nbits w : Nat) : Word := BitVec.ofNat 32 (w % 2 ^ nbits)

/-- The host's view of the decoder: the operation of a table row's word, none where the decoder rejects it. -/
def decodeTableWord (nbits w : Nat) : Option Instr := (decode (tableWord nbits w)).toOption

end Sys2Proof
end

