-- ==== Sys2Proof/Config.lean ====
section
/-! DEFINITION. The implementation parameters of 00 R8 as plain data, and the values the spec leaves open
in a run (the draws of 60 R296, 41 R181 and 42 R235) as constants without a body. -/

namespace Sys2Proof

/-- CAPACITY: "128 or 512 channels" (00 R8, 92 D13). -/
inductive Capacity where
  | c128
  | c512
deriving DecidableEq, Repr

/-- The number of channels of the Channel Buffer. -/
def Capacity.size : Capacity → Nat
  | .c128 => 128
  | .c512 => 512

/-- An Output Pin Descriptor: "a port-register reference plus bit mask" (10 R42).
The mask is the number whose bits are the mask's, since PORT_WIDTH is a parameter (log 11). -/
structure PinDesc where
  port : Nat
  mask : Nat
deriving DecidableEq, Repr

/-- The parameters of one realization (00 R8). They are not state: no transition changes them (10 R33);
a State carries them so that it names one machine (log 1). -/
structure Config where
  capacity        : Capacity
  /-- CPB, clock cycles in a bit period. -/
  cpb             : Nat
  /-- TICK_CYCLES, the tick period in clock cycles. -/
  tickCycles      : Nat
  /-- BUDGET_BITS, the budget of one tick in bit periods. -/
  budgetBits      : Nat
  resetMaxChannel : Nat
  /-- L_MAX, the greatest tick entry latency in cycles. -/
  lMax            : Nat
  /-- pinMap, as the list of the pins it maps; the first entry of a pin counts, an unlisted pin is none. -/
  pinMap          : List (PinId × PinDesc)
  /-- PORT_WIDTH, bits in a GPIO port register. -/
  portWidth       : Nat
deriving DecidableEq, Repr

namespace Config

/-- What 00 R8 asks of the parameters: `1 ≤ RESET_MAX_CHANNEL ≤ CAPACITY`, `CPB ≥ 1`, `TICK_CYCLES ≥ 1`, and every
mask of `pinMap` a PORT_WIDTH-bit value (10 R42). -/
structure Valid (c : Config) : Prop where
  resetMaxChannel_pos : 1 ≤ c.resetMaxChannel
  resetMaxChannel_le  : c.resetMaxChannel ≤ c.capacity.size
  cpb_pos             : 1 ≤ c.cpb
  tickCycles_pos      : 1 ≤ c.tickCycles
  masks_fit           : ∀ e ∈ c.pinMap, e.2.mask < 2 ^ c.portWidth

/-- The default of BUDGET_BITS: "a quarter of the tick period, in bit periods" (00 R8, 41 R185). -/
def defaultBudget (tickCycles cpb : Nat) : Nat := tickCycles / (4 * cpb)

/-- TOL_CYCLES = F_CLK × 1 µs, a quarter of a bit period (00 R8); no rule of the model depends on it (40 R160, log 16). -/
def tolCycles (c : Config) : Nat := c.cpb / 4

/-- F_CLK in Hz: CPB = F_CLK × 4 µs (00 R8). -/
def clockHz (c : Config) : Nat := c.cpb * 250000

/-- The level a line takes when START first drives it: "the model draws it from {0, 1}" (42 R235).
FREE VALUE: no body, so nothing can depend on it; applied to `State.draws` (log 5). -/
opaque freeLevel : Nat → Bool

/-- FREE VALUE behind the tick entry latency (41 R181); bounded by `drawLatency` (log 5). -/
opaque freeLatency : Nat → Nat

/-- FREE VALUE behind TICK_PHASE (60 R296); bounded by `drawPhase` (log 5). -/
opaque freePhase : Nat → Nat

/-- TICK_PHASE: "a fresh draw in [0, TICK_CYCLES)" (70 R330), the `k`-th draw. -/
def drawPhase (c : Config) (k : Nat) : Nat := freePhase k % c.tickCycles

/-- The configuration `State.reset` names: the values 95_test_vectors.md uses (sections 0, 4 and 6); every one is a parameter the
spec leaves open, so this is a DESIGN CHOICE (log 2). Claims about every configuration use `State.resetWith`. -/
def chosen : Config where
  capacity        := .c512
  cpb             := 64
  tickCycles      := 25600
  budgetBits      := defaultBudget 25600 64
  resetMaxChannel := 1
  lMax            := 0
  pinMap          := [(3, ⟨0, 0x08⟩), (4, ⟨0, 0x10⟩)]
  portWidth       := 8

end Config

end Sys2Proof
end

