-- ==== Sys2Proof/Machine/State.lean ====
section
/-! DEFINITION. The state of DMXTX as plain data (10 R33), with the platform state the core touches (10 R50, 20 R83), the observation
(00 R15), and the model's own two fields (`draws`, `agenda`); why a step can stop; and the state after reset (70 R330). -/

namespace Sys2Proof.Machine

/-- MODE: "one of {Disabled, Continuous, SingleShot}" (10 R36). The value 3 is never held. -/
inductive Mode where
  | disabled
  | continuous
  | singleShot
deriving DecidableEq, Repr

/-- A line level: Z for a pin the core does not drive, else 0 or 1 (00 R13). -/
inductive Level where
  | z
  | low
  | high
deriving DecidableEq, Repr

/-- The engine's phase: which engine operation is next while BUSY = 1 (10 R31, 41 R180). -/
inductive Phase where
  | select
  | stepA
  | stepB
  | advance
  | boundary
  | ret
deriving DecidableEq, Repr

/-- The faults a host command can raise (60 R291). They are recorded, and the machine goes on (60 R292). -/
inductive FaultCode where
  | illegalCommand
  | pinChangeWhileActive
  | noPinSelected
  | invalidPin
  | readOutOfRange
deriving DecidableEq, Repr

/-- FAULTS, a set of fault codes (10 R49): one Bool for each code, so equal sets are equal data. -/
structure FaultSet where
  illegalCommand       : Bool
  pinChangeWhileActive : Bool
  noPinSelected        : Bool
  invalidPin           : Bool
  readOutOfRange       : Bool
deriving DecidableEq, Repr

/-- A piece of the wire trace: LINE at `level` for `cycles` clock cycles (00 R15). -/
structure Seg where
  level  : Level
  cycles : Nat
deriving DecidableEq, Repr

/-- A transition of another agent, as an entry of `State.agenda`: the list fixes the order that 20 R91 and 60 R299 leave open (log 3). -/
inductive Event where
  /-- A host context issues a command word on the command port (30 R115). -/
  | command (word : Word)
  /-- It is the engine's turn: a due tick delivery or its next operation is taken (41 R180). -/
  | engine
  /-- It is the tick source's turn: the mark that falls on this cycle is taken (60 R296). -/
  | mark
  /-- Up to `n` cycles pass without a transition of the host or the engine. -/
  | pass (n : Nat)
  /-- The platform resets the block, `after` cycles into the engine's step if one starts now (70 R330, R332). -/
  | reset (after : Nat)
deriving DecidableEq, Repr

/-- Why the machine stops. -/
inductive Fault where
  /-- Raised by STEP_B alone, when CURSOR names no channel: `BufRead(c)` is "defined for 1 ≤ c ≤ CAPACITY only" (20 R81). No run
  reaches it (10 R38, 20 R82). SAFE: the machine stops where the spec gives no value (log 12). -/
  | absentChannel (c : Nat)
deriving DecidableEq, Repr

/-- Why an operation has no meaning. -/
inductive Refusal where
  /-- Raised by exec's arm of an operation that has no meaning yet. SAFE. No arm raises it now. -/
  | notModelled (mnemonic : String)
deriving DecidableEq, Repr

/-- The state of the machine. -/
structure State where
  /-- The parameters of this realization (00 R8); not state of the spec, and no transition changes them (log 1). -/
  cfg       : Config
  /-- BUF, the Channel Buffer, as (channel, byte) pairs in canonical form; an unlisted channel holds 0 (10 R34). -/
  buf       : List Host.Cell
  /-- MAXCH, the Active Channel Count (10 R35). -/
  maxch     : BitVec 16
  /-- MODE (10 R36). -/
  mode      : Mode
  /-- CURSOR, the Frame Cursor (10 R37). -/
  cursor    : BitVec 16
  /-- TIE, the tick interrupt enable (10 R39). -/
  tie       : Bool
  /-- PINSEL, the pin last recorded by SETPIN (10 R41). -/
  pinsel    : Option PinId
  /-- PINDESC, the Output Pin Descriptor (10 R42). -/
  pindesc   : Option PinDesc
  /-- PINDIR, the output enable of the line PINDESC names (10 R43). -/
  pindir    : Bool
  /-- LINE, the level of the output line (10 R44). -/
  line      : Level
  /-- BUSY (10 R45). -/
  busy      : Bool
  /-- REM, the remaining budget of the tick in progress (10 R46). -/
  rem       : Nat
  /-- TICK_PEND (10 R47). -/
  tickPend  : Bool
  /-- FAULTS (10 R49). -/
  faults    : FaultSet
  /-- Which engine operation is next (10 R31); SELECT while BUSY = 0 (log 10). -/
  phase     : Phase
  /-- Cycles from `now` to the engine time `t` of 40 R151 and 41 R181 (log 14). -/
  lead      : Nat
  /-- The cycle number, from 0 at reset (00 R12). -/
  now       : Nat
  /-- TICK_PHASE, drawn at reset (60 R296). -/
  tickPhase : Nat
  /-- Cycles from `now` to the next mark of the tick source (60 R296); 0 when a mark falls on this cycle and is not yet taken. -/
  toMark    : Nat
  /-- Platform: the GPIO output registers, (port, bits) pairs in canonical form, an unlisted port holding 0 (20 R83, log 6). -/
  portOut   : List (Nat × Nat)
  /-- Platform: the GPIO direction registers, a set bit an output (20 R80, log 6). -/
  portDir   : List (Nat × Nat)
  /-- Platform: GIE, the global interrupt enable (10 R50, log 7). -/
  gie       : Bool
  /-- Observation: the wire trace, oldest first (00 R15, log 8). -/
  wire      : List Seg
  /-- Observation: the words placed on the response port, oldest first (10 R52, log 8). -/
  responses : List Word
  /-- MODEL's own: how many free values have been drawn (log 5). -/
  draws     : Nat
  /-- MODEL's own: the transitions of the other agents still to come (log 3). -/
  agenda    : List Event
deriving DecidableEq, Repr

/-- The empty fault set (10 R49). -/
def FaultSet.empty : FaultSet := ⟨false, false, false, false, false⟩

/-- The state after reset (70 R330) for any parameters: the spec's values, TICK_PHASE "a fresh draw", and the named values of
logs 2, 6, 7 and 10 where the spec gives none. `draws` is how many free values were drawn before. -/
def State.resetWith (cfg : Config) (draws : Nat) : State where
  cfg       := cfg
  buf       := []
  maxch     := BitVec.ofNat 16 cfg.resetMaxChannel
  mode      := .disabled
  cursor    := 0
  tie       := false
  pinsel    := none
  pindesc   := none
  pindir    := false
  line      := .z
  busy      := false
  rem       := 0
  tickPend  := false
  faults    := FaultSet.empty
  phase     := .select
  lead      := 0
  now       := 0
  tickPhase := cfg.drawPhase draws
  toMark    := cfg.drawPhase draws
  portOut   := []
  portDir   := []
  gie       := true
  wire      := []
  responses := []
  draws     := draws + 1
  agenda    := []

/-- The machine right after reset, with the parameters of log 2 and nothing on the command port. -/
def State.reset : State := State.resetWith Config.chosen 0

end Sys2Proof.Machine
end

