-- ==== Sys2Proof/Machine/Flags.lean ====
section
/-! DEFINITION. DMXTX has no condition codes; its only status bits are the fault set and the word STATUS reports (10 R32). -/

namespace Sys2Proof.Machine

/-- MODE's two bits: "0 = Disabled, 1 = Continuous, 2 = SingleShot" (10 R36). -/
def Mode.code : Mode → BitVec 2
  | .disabled => 0
  | .continuous => 1
  | .singleShot => 2

/-- The codes of 60 R291. -/
def FaultCode.code : FaultCode → Nat
  | .illegalCommand => 1
  | .pinChangeWhileActive => 2
  | .noPinSelected => 3
  | .invalidPin => 4
  | .readOutOfRange => 5

/-- Whether a code is recorded. -/
def FaultSet.has (f : FaultSet) : FaultCode → Bool
  | .illegalCommand => f.illegalCommand
  | .pinChangeWhileActive => f.pinChangeWhileActive
  | .noPinSelected => f.noPinSelected
  | .invalidPin => f.invalidPin
  | .readOutOfRange => f.readOutOfRange

/-- Add a code to the set (60 R292). -/
def FaultSet.insert (f : FaultSet) : FaultCode → FaultSet
  | .illegalCommand => { f with illegalCommand := true }
  | .pinChangeWhileActive => { f with pinChangeWhileActive := true }
  | .noPinSelected => { f with noPinSelected := true }
  | .invalidPin => { f with invalidPin := true }
  | .readOutOfRange => { f with readOutOfRange := true }

/-- A one-bit register as a 32-bit number. -/
def bitWord (b : Bool) : Word := if b then 1 else 0

/-- The word STATUS responds: CURSOR in 31:16, TICK_PEND in 4, BUSY in 3, TIE in 2, MODE in 1:0 (43 R264). -/
def State.statusWord (s : State) : Word :=
  (s.cursor.setWidth 32 <<< 16) ||| (bitWord s.tickPend <<< 4) ||| (bitWord s.busy <<< 3) ||| (bitWord s.tie <<< 2)
    ||| s.mode.code.setWidth 32

end Sys2Proof.Machine
end

