-- ==== Sys2Proof/Machine/Memory.lean ====
section
/-! DEFINITION. Sparse stores in one canonical form, and the Channel Buffer over them (20 R80, R81). -/

namespace Sys2Proof.Machine

/-- The value a store holds for key `a`; an unlisted key holds `dflt`. -/
def storeGet {V : Type} (dflt : V) : List (Nat × V) → Nat → V
  | [], _ => dflt
  | (k, v) :: rest, a => if a = k then v else storeGet dflt rest a

/-- Write `v` at key `a`, keeping the canonical form: keys rise and no entry holds `dflt`. -/
def storeSet {V : Type} [DecidableEq V] (dflt : V) : List (Nat × V) → Nat → V → List (Nat × V)
  | [], a, v => if v = dflt then [] else [(a, v)]
  | (k, w) :: rest, a, v =>
    if a < k then (if v = dflt then (k, w) :: rest else (a, v) :: (k, w) :: rest)
    else if a = k then (if v = dflt then rest else (a, v) :: rest)
    else (k, w) :: storeSet dflt rest a v

/-- Every key of a store is above `lo`. -/
def storeAbove {V : Type} (lo : Nat) (m : List (Nat × V)) : Bool := m.all fun e => decide (lo < e.1)

/-- The canonical form: keys strictly rising, no entry equal to what an unlisted key holds. -/
def storeWf {V : Type} [DecidableEq V] (dflt : V) : List (Nat × V) → Bool
  | [] => true
  | (k, v) :: rest => decide (v ≠ dflt) && storeAbove k rest && storeWf dflt rest

/-- The canonical form of the Channel Buffer. -/
def Memory.wf (m : List Host.Cell) : Bool := storeWf (0 : Byte) m

/-- The byte a memory holds at channel `c`; an unlisted channel holds 0, its reset value (10 R34). -/
def Memory.read (m : List Host.Cell) (c : Nat) : Byte := storeGet 0 m c

/-- Store a byte at channel `c`. -/
def Memory.write (m : List Host.Cell) (c : Nat) (v : Byte) : List Host.Cell := storeSet 0 m c v

/-- `1 ≤ c ≤ CAPACITY`, the channels that exist (20 R80, R82). -/
def State.hasChannel (s : State) (c : Nat) : Bool := decide (1 ≤ c) && decide (c ≤ s.cfg.capacity.size)

/-- `BufRead(c)`, defined for the channels that exist only (20 R81). -/
def State.bufRead (s : State) (c : Nat) : Option Byte :=
  if s.hasChannel c then some (Memory.read s.buf c) else none

/-- `BufWrite(c, v)` (20 R81); the caller has shown that the channel exists. -/
def State.bufWrite (s : State) (c : Nat) (v : Byte) : State := { s with buf := Memory.write s.buf c v }

end Sys2Proof.Machine
end

