-- ==== Sys2Proof/Machine/Operands.lean ====
section
/-! DEFINITION. How operand values are read: clamping (00 R10), the channel range test (43 R269), and the pin map (42 R230, R233). -/

namespace Sys2Proof.Machine

/-- `clamp(x, lo, hi)` (00 R10). -/
def clamp (x lo hi : Int) : Int := if x < lo then lo else if hi < x then hi else x

/-- The byte WRITE stores: `clamp(val, 0, 255)` (43 R260). -/
def clampByte (val : Int) : Byte := BitVec.ofNat 8 (clamp val 0 255).toNat

/-- `1 ≤ ch ≤ CAPACITY` on the sign-extended operand (43 R260, R262, R269). -/
def State.channelExists (s : State) (ch : Int) : Bool := decide (1 ≤ ch) && decide (ch ≤ s.cfg.capacity.size)

/-- `clamp(ch, 1, CAPACITY)` as SETMAX stores it in the 16-bit register (43 R261). -/
def State.clampCount (s : State) (ch : Int) : BitVec 16 :=
  BitVec.ofNat 16 (clamp ch 1 s.cfg.capacity.size).toNat

/-- The first entry of a pin in a pin list. -/
def pinLookup : List (PinId × PinDesc) → PinId → Option PinDesc
  | [], _ => none
  | (p, d) :: rest, q => if q = p then some d else pinLookup rest q

/-- `pinMap(pin)` (00 R8). -/
def State.pinMap (s : State) (pin : PinId) : Option PinDesc := pinLookup s.cfg.pinMap pin

/-- How many of the low `width` bits of `mask` are set. -/
def popcount (width mask : Nat) : Nat := (List.range width).countP fun i => mask.testBit i

/-- A descriptor "identifying exactly one GPIO line": `popcount(d.mask) = 1` (10 R42, 42 R233). -/
def State.oneLine (s : State) (d : PinDesc) : Bool := popcount s.cfg.portWidth d.mask == 1

/-- The check of SETPIN: `pinMap(pin)` is a descriptor of exactly one line (42 R233). -/
def State.pinValid (s : State) (pin : PinId) : Bool :=
  match s.pinMap pin with
  | none => false
  | some d => s.oneLine d

end Sys2Proof.Machine
end

