-- ==== Sys2Proof/Machine/Ops.lean ====
section
/-! DEFINITION. The shared operations: recording a fault, answering a read command, driving the line, letting time pass, emitting,
beginning a transmission, entering and leaving a tick, choosing the engine's operation, reset. -/

namespace Sys2Proof.Machine

/-! ## Faults, tick entry and return -/

/-- `raise Fault(code)`: "adds code to FAULTS and abandons the command: no other state changes and no response word is produced"
(60 R292). The machine goes on. -/
def State.raiseFault (s : State) (code : FaultCode) : State := { s with faults := s.faults.insert code }

/-- The entry latency L of a tick, drawn in [0, L_MAX] (41 R181); a free value (log 5). -/
def drawLatency (cfg : Config) (k : Nat) : Nat :=
  if cfg.lMax = 0 then 0 else Config.freeLatency k % (cfg.lMax + 1)

/-- Taking the tick interrupt (41 R181, 60 R300): nothing is saved, the source is masked, the budget loaded, and the entry point is
SELECT. Engine time starts `L` cycles after the delivery cycle. -/
def State.enterTick (s : State) : State :=
  { s with
    tickPend := false
    busy     := true
    tie      := false
    rem      := s.cfg.budgetBits
    lead     := drawLatency s.cfg s.draws
    draws    := s.draws + 1
    phase    := .select }

/-- Leaving the tick by RETURN (41 R188, 60 R301): the source is enabled again unless the mode is Disabled. -/
def State.leaveTick (s : State) : State :=
  { s with tie := decide (s.mode ≠ .disabled), busy := false, phase := .select }

/-- A frame boundary that ends the tick without enabling the source (41 R187). -/
def State.endTransmission (s : State) : State :=
  { s with mode := .disabled, tie := false, busy := false, phase := .select }

/-- `respond(w)`: place a word on the response port (10 R52). -/
def State.respond (s : State) (w : Word) : State := { s with responses := s.responses ++ [w] }

/-! ## The output line -/

/-- A port's bits after `mask` is driven to a level: only the mask's bits change (20 R83). -/
def driveBits (bits mask : Nat) : Level → Nat
  | .high => bits ||| mask
  | .low => bits ^^^ (bits &&& mask)
  | .z => bits

/-- The output register of a port. -/
def State.portBits (s : State) (port : Nat) : Nat := storeGet 0 s.portOut port

/-- The direction register of a port. -/
def State.dirBits (s : State) (port : Nat) : Nat := storeGet 0 s.portDir port

/-- Drive the line PINDESC names to a level: "sets or clears only the mask bit of PINDESC.port" (40 R151, 20 R83). -/
def State.setLine (s : State) (level : Level) : State :=
  { s with
    line    := level
    portOut :=
      match s.pindesc with
      | none => s.portOut
      | some d => storeSet 0 s.portOut d.port (driveBits (s.portBits d.port) d.mask level) }

/-- The level of the GPIO line a descriptor names, as the port registers give it: Z while it is an input (10 R43, R44). -/
def State.pinLevel (s : State) (d : PinDesc) : Level :=
  if s.dirBits d.port &&& d.mask = 0 then .z
  else if s.portBits d.port &&& d.mask = 0 then .low
  else .high

/-! ## Time -/

/-- Cycles to the next mark after `n` cycles, the marks inside them taken (60 R296): the mark `toMark` cycles away, and one every
`period` cycles after it. A mark that falls on the cycle after the `n` is still to be taken (0). -/
def toMarkAfter (period toMark n : Nat) : Nat :=
  if n ≤ toMark then toMark - n else period - 1 - (n - toMark - 1) % period

/-- TICK_PEND after `n` cycles: set if a mark fell inside them, kept otherwise (60 R296). -/
def pendAfter (toMark n : Nat) (pend : Bool) : Bool := pend || decide (toMark < n)

/-- `n` cycles pass with the line at its level. -/
def State.elapse (s : State) (n : Nat) : State :=
  { s with
    now      := s.now + n
    toMark   := toMarkAfter s.cfg.tickCycles s.toMark n
    tickPend := pendAfter s.toMark n s.tickPend
    wire     := if n = 0 then s.wire else s.wire ++ [⟨s.line, n⟩] }

/-- The tick source takes its mark: "TICK_PEND <- 1" (60 R296). -/
def State.takeMark (s : State) : State := { s with tickPend := true, toMark := s.cfg.tickCycles }

/-! ## Emission -/

/-- One bit period at a level: CPB cycles (40 R150, R151). -/
def State.emitSlot (s : State) (level : Level) : State := (s.setLine level).elapse s.cfg.cpb

/-- `Emit(level, n)`: the line at `level` for `n` consecutive bit periods (40 R151). -/
def State.emit (s : State) (level : Level) : Nat → State
  | 0 => s
  | n + 1 => (s.emitSlot level).emit level n

/-- "low = 0, high = 1" (30 R111). -/
def levelOf (b : Bool) : Level := if b then .high else .low

/-- A critical region: interrupts are masked for the body, then "the previous interrupt-enable state" is restored (40 R155, 10 R50). -/
def State.critical (s : State) (body : State → State) : State :=
  { body { s with gie := false } with gie := s.gie }

/-- The eight data bits of a byte, least significant first (40 R153). -/
def State.emitBits (s : State) (v : Byte) : State :=
  (List.range 8).foldl (fun t i => t.emit (levelOf (v.getLsbD i)) 1) s

/-- TXBYTE(v): start bit, eight data bits, two stop bits, uninterruptible (40 R153, R155). -/
def State.transmit (s : State) (v : Byte) : State :=
  s.critical fun t => ((t.emit .low 1).emitBits v).emit .high 2

/-- BREAK: `Emit(0, 22)` (40 R158). -/
def State.emitBreak (s : State) : State := s.emit .low 22

/-- MAB: `Emit(1, 2)` (40 R159). -/
def State.emitMab (s : State) : State := s.emit .high 2

/-- START_CODE (00 R8). -/
abbrev startCode : Byte := 0x00

/-- COST_A (00 R8). -/
abbrev costA : Nat := 35

/-- COST_B (00 R8). -/
abbrev costB : Nat := 11

/-- The levels of the 11 slots of BYTE(v), as 30 R112 writes them. -/
def frame (v : Byte) : List Level :=
  [.low] ++ (List.range 8).map (fun i => levelOf (v.getLsbD i)) ++ [.high, .high]

/-- The levels of the 35 slots of Step A: BREAK, MAB, the start code (30 R113, R114). -/
def stepALevels : List Level := List.replicate 22 .low ++ List.replicate 2 .high ++ frame startCode

/-- A list of slot levels as a piece of the wire trace. -/
def slots (cfg : Config) (levels : List Level) : List Seg := levels.map fun l => ⟨l, cfg.cpb⟩

/-! ## Lifecycle -/

/-- A descriptor's line becomes an output: "configures the pin as output" (42 R230); no other direction bit changes. -/
def dirWith (dir : List (Nat × Nat)) : Option PinDesc → List (Nat × Nat)
  | none => dir
  | some d => storeSet 0 dir d.port (storeGet 0 dir d.port ||| d.mask)

/-- What START and STARTSINGLE do once PINSEL holds `pin` (42 R230, R231). The level of a line not yet driven by DMXTX is a free
value, drawn from {0, 1} (42 R235, log 5). -/
def State.beginTransmission (s : State) (m : Mode) (pin : PinId) : State :=
  let d := s.pinMap pin
  let t : State :=
    { s with mode := m, cursor := 0, pindesc := d, pindir := true, portDir := dirWith s.portDir d, tie := true }
  if s.pindir = false ∨ s.pindesc ≠ d then
    { t.setLine (levelOf (Config.freeLevel s.draws)) with draws := s.draws + 1 }
  else t

/-! ## Who moves next -/

/-- A tick can be delivered: "TIE = 1 ∧ BUSY = 0 ∧ TICK_PEND = 1" (60 R297). -/
def State.deliverable (s : State) : Bool := s.tie && !s.busy && s.tickPend

/-- The operation a phase stands for (41 R180). -/
def Phase.operation : Phase → Instr
  | .select => .select
  | .stepA => .stepA
  | .stepB => .stepB
  | .advance => .advance
  | .boundary => .boundary
  | .ret => .ret

/-- The engine operation that is due on this cycle: inside a tick the phase's, once engine time is reached; while idle TICK, if a
tick can be delivered (41 R180, R181). -/
def State.engineOp (s : State) : Option Instr :=
  if s.busy then (if s.lead = 0 then some s.phase.operation else none)
  else if s.deliverable then some .tick else none

/-- START and STARTSINGLE wait while the step in progress has yet to move the cursor, and STARTSINGLE while the frame boundary of the
frame before it has yet to read MODE: there they would contradict 42 R236, 20 R82 or 41 R196 (log 4). Every other command may stand
between any two engine operations (20 R92). -/
def State.defers (s : State) (i : Instr) : Bool :=
  s.busy &&
    match i with
    | .start => s.phase == .stepB || s.phase == .advance
    | .startsingle => s.phase == .stepB || s.phase == .advance || s.phase == .boundary
    | _ => false

/-- How many cycles may pass before some agent must move: none when a tick can be delivered (60 R297), no more than to the next
mark, and inside a tick no more than to engine time (41 R201). -/
def State.idleLimit (s : State) : Nat :=
  if s.deliverable then 0 else if s.busy then min s.lead s.toMark else s.toMark

/-- Up to `n` cycles pass in which no agent moves. -/
def State.passTime (s : State) (n : Nat) : State :=
  { s.elapse (min n s.idleLimit) with lead := s.lead - min n s.idleLimit }

/-- With no engine operation due: inside a tick time passes to engine time, the marks on the way taken; while idle it passes to the
next mark, which is taken. -/
def State.passToNext (s : State) : State :=
  if s.busy then { s.elapse s.lead with lead := 0 } else (s.elapse s.toMark).takeMark

/-! ## Reset -/

/-- The first `n` cycles of a piece of the wire trace. -/
def takeCycles : Nat → List Seg → List Seg
  | _, [] => []
  | n, g :: rest =>
    if n = 0 then [] else if n < g.cycles then [⟨g.level, n⟩] else g :: takeCycles (n - g.cycles) rest

/-- The waveform of the step that begins on this cycle, if one does. -/
def State.stepAhead (s : State) : List Seg :=
  match s.engineOp with
  | some .stepA => slots s.cfg stepALevels
  | some .stepB => (s.bufRead s.cursor.toNat).elim [] fun v => slots s.cfg (frame v)
  | _ => []

/-- The platform's reset, `after` cycles into the step that begins on this cycle (at once where none does): "no further slot of the
step is emitted, and the line returns to Z at the reset cycle" (70 R332), and the state is that of 70 R330 with a fresh TICK_PHASE.
The observation of the run so far is kept (log 8), and so is what other agents do next. -/
def State.resetNow (s : State) (after : Nat) : State :=
  { State.resetWith s.cfg s.draws with
    wire      := s.wire ++ takeCycles after s.stepAhead
    responses := s.responses
    agenda    := s.agenda }

end Sys2Proof.Machine
end

