-- ==== Sys2Proof/Machine/Accessors.lean ====
section
/-! DEFINITION. The channel buffer accessors: WRITE, SETMAX, READ, READMAX, STATUS (43). -/

namespace Sys2Proof.Machine

/-- WRITE(ch, val) (43 R260): a channel out of range is ignored, the value saturates to [0, 255], the count is raised and never
lowered; one transition (20 R87). -/
def execWrite (ch val : Int) (s : State) : Host.Outcome State Fault Refusal :=
  .next <|
    if s.channelExists ch then
      { s.bufWrite ch.toNat (clampByte val) with
        maxch := if (s.maxch.toNat : Int) < ch then BitVec.ofNat 16 ch.toNat else s.maxch }
    else s

/-- SETMAX(ch) (43 R261): `MAXCH <- clamp(ch, 1, CAPACITY)`. -/
def execSetmax (ch : Int) (s : State) : Host.Outcome State Fault Refusal :=
  .next { s with maxch := s.clampCount ch }

/-- READ(ch) (43 R262): responds the channel's byte, zero-extended; a channel out of range is the fault ReadOutOfRange. -/
def execRead (ch : Int) (s : State) : Host.Outcome State Fault Refusal :=
  .next <|
    if s.channelExists ch then s.respond ((Memory.read s.buf ch.toNat).setWidth 32)
    else s.raiseFault .readOutOfRange

/-- READMAX (43 R263): responds MAXCH, zero-extended. -/
def execReadmax (s : State) : Host.Outcome State Fault Refusal :=
  .next (s.respond (s.maxch.setWidth 32))

/-- STATUS (43 R264). -/
def execStatus (s : State) : Host.Outcome State Fault Refusal :=
  .next (s.respond s.statusWord)

end Sys2Proof.Machine
end

