-- ==== Sys2Proof/Machine/FrameMachine.lean ====
section
/-! DEFINITION. The Frame State Machine: TICK, SELECT, STEP_A, STEP_B, ADVANCE, BOUNDARY, RETURN (41). The engine selects them from its
state (`State.engineOp`); a meaning here is the operation's pseudocode. -/

namespace Sys2Proof.Machine

/-- TICK (41 R181). -/
def execTick (s : State) : Host.Outcome State Fault Refusal :=
  .next s.enterTick

/-- SELECT (41 R182): Step A at cursor 0, Step B otherwise, RETURN when the budget does not cover the cost ("REM ≥ cost"). -/
def execSelect (s : State) : Host.Outcome State Fault Refusal :=
  .next { s with
    phase :=
      if s.cursor = 0 then (if costA ≤ s.rem then .stepA else .ret)
      else if costB ≤ s.rem then .stepB else .ret }

/-- STEP_A (41 R183): one uninterruptible unit of 35 slots (40 R155). -/
def execStepA (s : State) : Host.Outcome State Fault Refusal :=
  .next { ({ s with rem := s.rem - costA }).critical (fun t => (t.emitBreak.emitMab).transmit startCode) with phase := .advance }

/-- STEP_B (41 R184): the byte is read once and latched for the 11 slots (20 R93). -/
def execStepB (s : State) : Host.Outcome State Fault Refusal :=
  match s.bufRead s.cursor.toNat with
  | none => .fault (.absentChannel s.cursor.toNat)
  | some v => .next { ({ s with rem := s.rem - costB }).transmit v with phase := .advance }

/-- ADVANCE (41 R186): the cursor moves; past the count it wraps to 0, the frame boundary. The comparison is on integers (43 R269). -/
def execAdvance (s : State) : Host.Outcome State Fault Refusal :=
  .next <|
    if s.maxch.toNat < s.cursor.toNat + 1 then { s with cursor := 0, phase := .boundary }
    else { s with cursor := BitVec.ofNat 16 (s.cursor.toNat + 1), phase := .select }

/-- BOUNDARY (41 R187): "if MODE != Continuous" the transmission and the tick end here. -/
def execBoundary (s : State) : Host.Outcome State Fault Refusal :=
  .next (if s.mode = .continuous then { s with phase := .select } else s.endTransmission)

/-- RETURN (41 R188). -/
def execRet (s : State) : Host.Outcome State Fault Refusal :=
  .next s.leaveTick

end Sys2Proof.Machine
end

