-- ==== Sys2Proof/Machine/Lifecycle.lean ====
section
/-! DEFINITION. Lifecycle control: START, STARTSINGLE, STOP, SETPIN (42). -/

namespace Sys2Proof.Machine

/-- START (42 R230): "raise Fault(NoPinSelected)" if no pin is recorded, else begin in Continuous mode. -/
def execStart (s : State) : Host.Outcome State Fault Refusal :=
  match s.pinsel with
  | none => .next (s.raiseFault .noPinSelected)
  | some pin => .next (s.beginTransmission .continuous pin)

/-- STARTSINGLE (42 R231): "as START with MODE <- SingleShot". -/
def execStartsingle (s : State) : Host.Outcome State Fault Refusal :=
  match s.pinsel with
  | none => .next (s.raiseFault .noPinSelected)
  | some pin => .next (s.beginTransmission .singleShot pin)

/-- STOP (42 R232): masks the tick source and sets MODE to Disabled; a tick in progress goes on (41 R197). -/
def execStop (s : State) : Host.Outcome State Fault Refusal :=
  .next { s with tie := false, mode := .disabled }

/-- SETPIN(pin) (42 R233): the checks in the order of 60 R293, then `PINSEL <- pin`. -/
def execSetpin (pin : PinId) (s : State) : Host.Outcome State Fault Refusal :=
  .next <|
    if s.mode ≠ .disabled ∨ s.busy = true then s.raiseFault .pinChangeWhileActive
    else if s.pinValid pin then { s with pinsel := some pin }
    else s.raiseFault .invalidPin

end Sys2Proof.Machine
end

