-- ==== Sys2Proof/Machine/Transmitter.lean ====
section
/-! DEFINITION. The Byte Transmitter: TXBYTE, BREAK, MAB (40). They are parts of STEP_A and STEP_B; the engine never selects them by
themselves, so they leave the phase alone. -/

namespace Sys2Proof.Machine

/-- TXBYTE(v) (40 R153). -/
def execTxbyte (v : Byte) (s : State) : Host.Outcome State Fault Refusal :=
  .next (s.transmit v)

/-- BREAK (40 R158), inside the step's critical region (40 R155). -/
def execBrk (s : State) : Host.Outcome State Fault Refusal :=
  .next (s.critical State.emitBreak)

/-- MAB (40 R159), inside the step's critical region (40 R155). -/
def execMab (s : State) : Host.Outcome State Fault Refusal :=
  .next (s.critical State.emitMab)

end Sys2Proof.Machine
end

