-- ==== Sys2Proof/Machine/Dispatch.lean ====
section
/-! DEFINITION. One arm for each operation of spec/opcode_table.json, in the table's order. -/

namespace Sys2Proof.Machine

def exec (i : Instr) (s : State) : Host.Outcome State Fault Refusal :=
  match i with
  | .write ch val => Sys2Proof.Machine.execWrite ch val s
  | .setmax ch => Sys2Proof.Machine.execSetmax ch s
  | .setpin pin => Sys2Proof.Machine.execSetpin pin s
  | .start => Sys2Proof.Machine.execStart s
  | .startsingle => Sys2Proof.Machine.execStartsingle s
  | .stop => Sys2Proof.Machine.execStop s
  | .read ch => Sys2Proof.Machine.execRead ch s
  | .readmax => Sys2Proof.Machine.execReadmax s
  | .status => Sys2Proof.Machine.execStatus s
  | .tick => Sys2Proof.Machine.execTick s
  | .select => Sys2Proof.Machine.execSelect s
  | .stepA => Sys2Proof.Machine.execStepA s
  | .stepB => Sys2Proof.Machine.execStepB s
  | .advance => Sys2Proof.Machine.execAdvance s
  | .boundary => Sys2Proof.Machine.execBoundary s
  | .ret => Sys2Proof.Machine.execRet s
  | .txbyte v => Sys2Proof.Machine.execTxbyte v s
  | .brk => Sys2Proof.Machine.execBrk s
  | .mab => Sys2Proof.Machine.execMab s

end Sys2Proof.Machine
end

