-- ==== Sys2Proof/Machine/Turns.lean ====
section
/-! DEFINITION. What one agent does when it is its turn: the engine, a host command, the tick source, the passing of time, the platform's
reset (20 R91, log 3). -/

namespace Sys2Proof.Machine

/-- The machine by itself: the engine's operation if one is due, else time passes to what comes next. -/
def autonomous (s : State) : Host.Outcome State Fault Refusal :=
  match s.engineOp with
  | some i => exec i s
  | none => .next s.passToNext

/-- A host command: the word is decoded and executed as one transition (20 R87), an illegal word raises IllegalCommand (30 R119). While
the command must wait, the engine goes on and the word stays on the command port (log 4). `rest` is the agenda after it. -/
def takeCommand (w : Word) (rest : List Event) (s : State) : Host.Outcome State Fault Refusal :=
  match decode w with
  | .error _ => .next (({ s with agenda := rest }).raiseFault .illegalCommand)
  | .ok i => if s.defers i then autonomous s else exec i { s with agenda := rest }

/-- The engine's turn; an entry that names the engine when it has nothing to do has no effect (log 3). -/
def takeEngineTurn (s : State) : Host.Outcome State Fault Refusal :=
  match s.engineOp with
  | some i => exec i s
  | none => .next s

/-- The turn of the agent that an agenda entry names. `rest` is the agenda after it. -/
def takeEntry (e : Event) (rest : List Event) (s : State) : Host.Outcome State Fault Refusal :=
  match e with
  | .command w => takeCommand w rest s
  | .engine => takeEngineTurn { s with agenda := rest }
  | .mark => .next (if s.toMark = 0 then ({ s with agenda := rest }).takeMark else { s with agenda := rest })
  | .pass n => .next (({ s with agenda := rest }).passTime n)
  | .reset after => .next (({ s with agenda := rest }).resetNow after)

end Sys2Proof.Machine
end

