-- ==== Sys2Proof/Machine/Step.lean ====
section
/-! DEFINITION. One transition of the whole machine: the next entry of the agenda says which agent moves (20 R91, log 3); with nothing on
it the machine runs by itself. -/

namespace Sys2Proof.Machine

/-- One transition. -/
def step (s : State) : Host.Outcome State Fault Refusal :=
  match s.agenda with
  | [] => autonomous s
  | e :: rest => takeEntry e rest s

/-- A table row's word put on the command port as the next command (log 17). -/
def State.withFetchWord (s : State) (nbits w : Nat) : State :=
  { s with agenda := .command (tableWord nbits w) :: s.agenda }

end Sys2Proof.Machine
end

