-- ==== Sys2Proof/Machine/OnTick.lean ====
section
/-! DEFINITION. "The whole tick, as one procedure equivalent to rules R181–R188" (41 R189). The step function does not use it: it is the
second design that the engine's operations are to agree with. -/

namespace Sys2Proof.Machine

/-- The end of the loop's body of 41 R189: the cursor moves; the Bool says that a frame boundary outside Continuous mode has ended the
tick. -/
def State.moveOn (s : State) : State × Bool :=
  if s.maxch.toNat < s.cursor.toNat + 1 then
    if s.mode = .continuous then ({ s with cursor := 0 }, false)
    else (({ s with cursor := 0 }).endTransmission, true)
  else ({ s with cursor := BitVec.ofNat 16 (s.cursor.toNat + 1) }, false)

/-- The loop of 41 R189, at most `fuel` times round. None where it would read a channel that does not exist, or run out of fuel. -/
def tickLoop : Nat → State → Option State
  | 0, _ => none
  | fuel + 1, s =>
    if s.cursor = 0 then
      if s.rem < 35 then some s.leaveTick
      else
        match (({ s with rem := s.rem - 35 }).critical fun t => ((t.emit .low 22).emit .high 2).transmit 0x00).moveOn with
        | (t, true) => some t
        | (t, false) => tickLoop fuel t
    else
      if s.rem < 11 then some s.leaveTick
      else
        match s.bufRead s.cursor.toNat with
        | none => none
        | some v =>
          match (({ s with rem := s.rem - 11 }).transmit v).moveOn with
          | (t, true) => some t
          | (t, false) => tickLoop fuel t

/-- `onTick(td)` with no host command during the tick (41 R189). -/
def State.onTick (s : State) : Option State :=
  let t := s.enterTick
  tickLoop (s.cfg.budgetBits + 1) { t.elapse t.lead with lead := 0 }

end Sys2Proof.Machine
end

