-- ==== Sys2Proof/Safety.lean ====
section
/-! DEFINITION. What claims are stated in: the acceptable states of 60 R292, the invariant of every reachable state, and what a step can
have been. -/

namespace Sys2Proof.Machine

/-- "A model treats a run whose FAULTS is non-empty as having gone wrong" (60 R292). -/
def State.acceptable (s : State) : Bool := s.faults == FaultSet.empty

/-- A transmission is on: "while MODE ≠ Disabled or a tick is in progress" (42 R234). -/
def State.active (s : State) : Bool := decide (s.mode ≠ .disabled) || s.busy

/-- What a phase promises about the cursor and the budget (41 R182, R186). -/
def State.phaseOk (s : State) : Prop :=
  match s.phase with
  | .stepA => s.cursor = 0 ∧ costA ≤ s.rem
  | .stepB => s.cursor ≠ 0 ∧ costB ≤ s.rem
  | .boundary => s.cursor = 0
  | .select | .advance | .ret => True

/-- The invariant of the reachable states. -/
structure State.Inv (s : State) : Prop where
  /-- The parameters are those 00 R8 allows. -/
  cfg_valid      : s.cfg.Valid
  /-- BUF keeps its canonical form and lists existing channels only (20 R82). -/
  buf_wf         : Memory.wf s.buf = true
  buf_channels   : ∀ e ∈ s.buf, 1 ≤ e.1 ∧ e.1 ≤ s.cfg.capacity.size
  /-- "MAXCH stays in [1, CAPACITY]" (10 R55). -/
  maxch_pos      : 1 ≤ s.maxch.toNat
  maxch_le       : s.maxch.toNat ≤ s.cfg.capacity.size
  /-- "0 ≤ CURSOR ≤ CAPACITY" (10 R38). -/
  cursor_le      : s.cursor.toNat ≤ s.cfg.capacity.size
  /-- "Whenever BUSY = 0: TIE = 1 if and only if MODE ≠ Disabled" (10 R40). -/
  tie_iff        : s.busy = false → (s.tie = true ↔ s.mode ≠ .disabled)
  /-- PINSEL holds a pin that SETPIN accepted (42 R230, R233). -/
  pinsel_valid   : ∀ p, s.pinsel = some p → s.pinValid p = true
  /-- While a transmission is on, the captured descriptor is PINSEL's (42 R234). -/
  active_pin     : s.active = true ∨ s.tie = true → s.pindir = true ∧ ∃ p, s.pinsel = some p ∧ s.pindesc = s.pinMap p
  /-- PINDESC is one line of a port once a line is driven, and none before (10 R42, 70 R334). -/
  pindesc_some   : s.pindir = true → ∃ d, s.pindesc = some d ∧ s.oneLine d = true
  pindesc_none   : s.pindir = false → s.pindesc = none
  /-- "Z while PINDIR = 0, otherwise 0 or 1" (10 R44). -/
  line_z         : s.line = .z ↔ s.pindir = false
  /-- LINE is the level of the GPIO line PINDESC names (10 R43, R44, 20 R83). -/
  line_pin       : ∀ d, s.pindesc = some d → s.line = s.pinLevel d
  portOut_wf     : storeWf 0 s.portOut = true
  portDir_wf     : storeWf 0 s.portDir = true
  /-- "0 ≤ REM ≤ BUDGET_BITS holds throughout a tick" (41 R190). -/
  rem_le         : s.rem ≤ s.cfg.budgetBits
  /-- The engine's place while it is in a tick, and its rest while it is not (41 R180). -/
  phase_ok       : s.busy = true → s.phaseOk
  idle_phase     : s.busy = false → s.phase = .select ∧ s.lead = 0
  lead_select    : 0 < s.lead → s.phase = .select
  lead_le        : s.lead ≤ s.cfg.lMax
  /-- TICK_PHASE is in [0, TICK_CYCLES) (60 R296). -/
  tickPhase_lt   : s.tickPhase < s.cfg.tickCycles
  toMark_le      : s.toMark ≤ s.cfg.tickCycles
  /-- The marks are the cycles TICK_PHASE + k × TICK_CYCLES (60 R296). -/
  mark_grid      : ∃ k, s.now + s.toMark = s.tickPhase + k * s.cfg.tickCycles

/-- The next transition is the platform's reset. -/
def State.resetNext (s : State) : Bool :=
  match s.agenda with
  | .reset _ :: _ => true
  | _ => false

/-- The next transition is the host command `i`. -/
def State.commandNext (s : State) (i : Instr) : Prop :=
  ∃ w rest, s.agenda = .command w :: rest ∧ decode w = .ok i ∧ s.defers i = false

/-- The transition is one of START and STARTSINGLE. -/
def State.startNext (s : State) : Prop := s.commandNext .start ∨ s.commandNext .startsingle

/-- The engine moves next: it is its turn, nothing is on the agenda, or the command at the agenda's head must wait. -/
def State.engineTurn (s : State) : Prop :=
  s.agenda = [] ∨ (∃ rest, s.agenda = .engine :: rest) ∨
    ∃ w rest i, s.agenda = .command w :: rest ∧ decode w = .ok i ∧ s.defers i = true

/-- The next transition is the engine operation `i`. -/
def State.operationNext (s : State) (i : Instr) : Prop := s.engineOp = some i ∧ s.engineTurn

/-- The table of 70 R330, element by element, for the parameters `cfg`. -/
structure State.ResetTable (cfg : Config) (s : State) : Prop where
  cfg_kept  : s.cfg = cfg
  buf       : ∀ c, 1 ≤ c → c ≤ cfg.capacity.size → s.bufRead c = some 0
  maxch     : s.maxch.toNat = cfg.resetMaxChannel
  mode      : s.mode = .disabled
  cursor    : s.cursor = 0
  tie       : s.tie = false
  pinsel    : s.pinsel = none
  pindesc   : s.pindesc = none
  pindir    : s.pindir = false
  line      : s.line = .z
  busy      : s.busy = false
  rem       : s.rem = 0
  tickPend  : s.tickPend = false
  faults    : s.faults = ⟨false, false, false, false, false⟩
  tickPhase : s.tickPhase < cfg.tickCycles
  /-- Cycle numbering restarts at 0, and the first mark is at cycle TICK_PHASE (60 R296). -/
  now       : s.now = 0
  toMark    : s.toMark = s.tickPhase

/-- From `s` to `t` the GPIO line PINDESC names is driven to `high`, and no other bit of any port changes (20 R83, 40 R151). -/
def DrivesOnly (s t : State) (high : Bool) : Prop :=
  (∀ d i, s.pindesc = some d → d.mask.testBit i = true → (t.portBits d.port).testBit i = high) ∧
  (∀ port i, (∀ d, s.pindesc = some d → d.port = port → d.mask.testBit i = false) →
    (t.portBits port).testBit i = (s.portBits port).testBit i)

/-- The idle piece of the wire trace that `n` cycles at a level leave: none for no cycles. -/
def idleSegs (level : Level) (n : Nat) : List Seg := if n = 0 then [] else [⟨level, n⟩]

/-- The slots of one frame of `m` channels: "BREAK ++ MAB ++ BYTE(0x00) ++ BYTE(BUF[1]) ++ ... ++ BYTE(BUF[M])" (30 R113). -/
def frameLevels (s : State) (m : Nat) : List Level :=
  List.replicate 22 .low ++ List.replicate 2 .high ++ frame 0x00 ++
    (List.range m).flatMap fun i => frame (Memory.read s.buf (i + 1))

/-- A transmission that can never emit: the budget does not cover Step A, the cursor waits for it, and no step is in progress
(70 R336). -/
structure State.Starved (s : State) : Prop where
  budget : s.cfg.budgetBits < 35
  rem    : s.rem ≤ s.cfg.budgetBits
  cursor : s.cursor = 0
  phase  : s.phase = .select ∨ s.phase = .ret

/-- The length of a piece of the wire trace, in cycles. -/
def wireCycles (w : List Seg) : Nat := (w.map Seg.cycles).sum

/-- The level at cycle `n` of a piece of the wire trace, none past its end (00 R15). -/
def levelAt : List Seg → Nat → Option Level
  | [], _ => none
  | g :: rest, n => if n < g.cycles then some g.level else levelAt rest (n - g.cycles)

/-- The tick source for one cycle, as 60 R296 tells it: a mark that falls on this cycle sets TICK_PEND and the next is TICK_CYCLES away;
then the cycle passes. -/
def tickSourceCycle (period : Nat) (t : Bool × Nat) : Bool × Nat :=
  if t.2 = 0 then (true, period - 1) else (t.1, t.2 - 1)

end Sys2Proof.Machine
end

