-- ==== Sys2Proof/Certificates/Slice0/Obligations.lean ====
section
/-! DEFINITION. The statements for the provers. "R<n>" names a numbered rule of spec/, "log <n>" a row of notes/assumptions/. -/

open Sys2Proof Sys2Proof.Machine

/-! ## Reset -/

/-- The state right after reset is the table of R330 for every allowed set of parameters, and `State.reset` is such a state. The values of
the parameters in `State.reset` are the model's choice (log 2). -/
def Obligations.ResetStateIsTheTable : Prop :=
  (∀ cfg draws, cfg.Valid → (State.resetWith cfg draws).ResetTable cfg) ∧
  Config.chosen.Valid ∧ State.reset = State.resetWith Config.chosen 0

/-- R330: whatever the machine was doing, the platform's reset leaves the table of R330 at once, and the configuration unchanged. -/
def Obligations.ResetEventLeavesTheTable : Prop :=
  ∀ s after rest, s.cfg.Valid → s.agenda = .reset after :: rest →
    ∃ t, step s = .next t ∧ t.ResetTable s.cfg ∧ t.agenda = rest

/-- R332: a reset `after` cycles into a step cuts the step's waveform there and releases the line; a reset between steps emits nothing. -/
def Obligations.ResetCutsTheStepShort : Prop :=
  ∀ s after rest, s.agenda = .reset after :: rest →
    ∃ t cut, step s = .next t ∧ t.line = .z ∧ t.busy = false ∧ t.wire = s.wire ++ cut ∧
      (s.busy = true → s.lead = 0 → s.phase = .stepA → after ≤ 35 * s.cfg.cpb →
        wireCycles cut = after ∧ ∀ k, k < after → levelAt cut k = levelAt (slots s.cfg stepALevels) k) ∧
      (s.busy = true → s.lead = 0 → s.phase = .stepB → after ≤ 11 * s.cfg.cpb →
        ∀ v, s.bufRead s.cursor.toNat = some v →
          wireCycles cut = after ∧ ∀ k, k < after → levelAt cut k = levelAt (slots s.cfg (frame v)) k) ∧
      (s.busy = false ∨ 0 < s.lead ∨ (s.phase ≠ .stepA ∧ s.phase ≠ .stepB) → cut = [])

/-! ## Channel buffer accessors -/

/-- R260, R266, R267: in range WRITE stores the clamped byte and raises the count, never lowers it, and touches nothing else; out of range
it changes nothing. -/
def Obligations.WriteStoresClampedByte : Prop :=
  ∀ (ch val : Int) (s : State), Memory.wf s.buf = true →
    (1 ≤ ch → ch ≤ s.cfg.capacity.size →
      ∃ t v, exec (.write ch val) s = .next t ∧
        t.bufRead ch.toNat = some v ∧
        (v.toNat : Int) = (if val < 0 then 0 else if 255 < val then 255 else val) ∧
        (∀ c, c ≠ ch.toNat → t.bufRead c = s.bufRead c) ∧
        t.maxch.toNat = max s.maxch.toNat ch.toNat ∧
        t = { s with buf := t.buf, maxch := t.maxch }) ∧
    (ch < 1 ∨ s.cfg.capacity.size < ch → exec (.write ch val) s = .next s)

/-- R261: SETMAX stores `clamp(ch, 1, CAPACITY)` in MAXCH, whole, and touches nothing else. -/
def Obligations.SetmaxClampsTheCount : Prop :=
  ∀ (ch : Int) (s : State),
    ∃ t, exec (.setmax ch) s = .next t ∧
      (t.maxch.toNat : Int) = (if ch < 1 then 1 else if (s.cfg.capacity.size : Int) < ch then (s.cfg.capacity.size : Int) else ch) ∧
      t = { s with maxch := t.maxch }

/-- R262: READ responds the channel's byte zero-extended, and raises ReadOutOfRange for a channel that does not exist. -/
def Obligations.ReadRespondsTheByte : Prop :=
  ∀ (ch : Int) (s : State),
    (1 ≤ ch → ch ≤ s.cfg.capacity.size →
      ∃ v, s.bufRead ch.toNat = some v ∧
        exec (.read ch) s = .next { s with responses := s.responses ++ [BitVec.ofNat 32 v.toNat] }) ∧
    (ch < 1 ∨ s.cfg.capacity.size < ch →
      exec (.read ch) s = .next { s with faults := { s.faults with readOutOfRange := true } })

/-- R263: READMAX responds MAXCH zero-extended and changes nothing else. -/
def Obligations.ReadmaxRespondsTheCount : Prop :=
  ∀ s : State, exec .readmax s = .next { s with responses := s.responses ++ [BitVec.ofNat 32 s.maxch.toNat] }

/-- R264: STATUS responds one word with the fields of the rule's table, and changes nothing else. -/
def Obligations.StatusWordHasItsFields : Prop :=
  ∀ s : State,
    ∃ w : Word, exec .status s = .next { s with responses := s.responses ++ [w] } ∧
      w.extractLsb' 0 2 = (match s.mode with | .disabled => 0 | .continuous => 1 | .singleShot => 2) ∧
      w.getLsbD 2 = s.tie ∧ w.getLsbD 3 = s.busy ∧ w.getLsbD 4 = s.tickPend ∧
      w.extractLsb' 5 11 = 0 ∧ w.extractLsb' 16 16 = s.cursor

/-- After WRITE c, v with v in [0, 255], READ c responds v and READMAX responds a count of at least c (R265, for the very next command). -/
def Obligations.WriteThenReadGivesTheValue : Prop :=
  ∀ (c v : Int) (s : State), Memory.wf s.buf = true → 1 ≤ c → c ≤ s.cfg.capacity.size → 0 ≤ v → v ≤ 255 →
    ∃ t u x w, exec (.write c v) s = .next t ∧
      exec (.read c) t = .next u ∧ u.responses = s.responses ++ [BitVec.ofInt 32 v] ∧
      exec .readmax t = .next x ∧ x.responses = s.responses ++ [w] ∧ c ≤ w.toNat

/-- R34: a channel's byte changes only by a WRITE of that channel or by reset. -/
def Obligations.ChannelChangesOnlyByWrite : Prop :=
  ∀ (s t : State) (c : Nat), step s = .next t → s.resetNext = false →
    (∀ val, ¬ s.commandNext (.write c val)) → t.bufRead c = s.bufRead c

/-! ## Lifecycle -/

/-- R230, R231: with a pin recorded, START and STARTSINGLE set the mode, the cursor, the descriptor, the direction and the enable. A line
DMXTX already drives keeps its level; else it is driven to 0 or 1 (a free value, log 5). No other output bit changes (R83). No direction bit
falls, so a line driven before stays an output when another is selected: the model's choice (log 6; R43). Without a pin they record
NoPinSelected and change nothing else. -/
def Obligations.StartBeginsATransmission : Prop :=
  ∀ (i : Instr) (m : Mode), (i = .start ∧ m = .continuous) ∨ (i = .startsingle ∧ m = .singleShot) →
    ∀ s : State,
      (s.pinsel = none → exec i s = .next { s with faults := { s.faults with noPinSelected := true } }) ∧
      ∀ p : PinId, s.pinsel = some p → storeWf 0 s.portOut = true → storeWf 0 s.portDir = true →
        ∃ t, exec i s = .next t ∧
          t = { s with mode := m, cursor := 0, pindesc := s.pinMap p, pindir := true, tie := true, line := t.line,
                       portOut := t.portOut, portDir := t.portDir, draws := t.draws } ∧
          (∀ port k, (t.dirBits port).testBit k = true ↔
            (s.dirBits port).testBit k = true ∨ ∃ d, s.pinMap p = some d ∧ d.port = port ∧ d.mask.testBit k = true) ∧
          (s.pindir = true → s.pindesc = s.pinMap p → t.line = s.line ∧ t.portOut = s.portOut) ∧
          (s.pindir = false ∨ s.pindesc ≠ s.pinMap p →
            ∃ high : Bool, t.line = (if high then .high else .low) ∧
              DrivesOnly { s with pindesc := s.pinMap p } t high)

/-- R232: STOP masks the tick source and disables the mode, and changes nothing else; a second STOP changes nothing. -/
def Obligations.StopDisables : Prop :=
  ∀ s : State, exec .stop s = .next { s with tie := false, mode := .disabled } ∧
    exec .stop { s with tie := false, mode := .disabled } = .next { s with tie := false, mode := .disabled }

/-- R233: SETPIN records a pin that maps to exactly one line while no transmission is on; else it raises the fault of the first check that
fails, and touches nothing else. -/
def Obligations.SetpinRecordsAOneLinePin : Prop :=
  ∀ (pin : PinId) (s : State),
    (s.mode ≠ .disabled ∨ s.busy = true →
      exec (.setpin pin) s = .next { s with faults := { s.faults with pinChangeWhileActive := true } }) ∧
    (s.mode = .disabled → s.busy = false →
      (∃ d, s.pinMap pin = some d ∧ ∃! k, k < s.cfg.portWidth ∧ d.mask.testBit k = true) →
        exec (.setpin pin) s = .next { s with pinsel := some pin }) ∧
    (s.mode = .disabled → s.busy = false →
      (¬ ∃ d, s.pinMap pin = some d ∧ ∃! k, k < s.cfg.portWidth ∧ d.mask.testBit k = true) →
        exec (.setpin pin) s = .next { s with faults := { s.faults with invalidPin := true } })

/-- R234: the descriptor and the direction cannot change while a transmission is on, but by reset. -/
def Obligations.PinIsFixedWhileActive : Prop :=
  ∀ s t : State, s.Inv → s.active = true → step s = .next t → s.resetNext = false →
    t.pindesc = s.pindesc ∧ t.pindir = s.pindir

/-- R236: when a START or STARTSINGLE is taken, inside a tick or between ticks, CURSOR is 0 after it and no channel byte can come before the
next STEP_A. That the command waits while STEP_B or ADVANCE is due is the model's choice (log 4). -/
def Obligations.RestartBeginsANewFrame : Prop :=
  ∀ s t : State, s.Inv → s.pinsel ≠ none → s.startNext → step s = .next t →
    t.cursor = 0 ∧ t.tie = true ∧ t.phase ≠ .stepB ∧ t.phase ≠ .advance ∧ t.busy = s.busy ∧ t.wire = s.wire

/-- R309: with MODE Disabled, TIE 0 and no tick in progress the engine never runs and the line holds its level, until START, STARTSINGLE or
reset. -/
def Obligations.OnlyStartWakesTheQuietBlock : Prop :=
  ∀ s t : State, s.mode = .disabled → s.tie = false → s.busy = false → step s = .next t → s.resetNext = false → ¬ s.startNext →
    t.mode = .disabled ∧ t.tie = false ∧ t.busy = false ∧ t.line = s.line ∧ t.portOut = s.portOut ∧ t.cursor = s.cursor

/-! ## Command words -/

/-- When the word on the command port decodes to a command that need not wait, the step is that command's meaning, with the word consumed;
while no tick is in progress no command waits, and only START and STARTSINGLE ever do (the waiting is the model's choice, log 4). -/
def Obligations.StepRunsTheDecodedCommand : Prop :=
  ∀ (s : State) (w : Word) (rest : List Event) (i : Instr), s.agenda = .command w :: rest → decode w = .ok i →
    (s.defers i = false → step s = exec i { s with agenda := rest }) ∧
    (s.busy = false → s.defers i = false) ∧
    (i ≠ .start → i ≠ .startsingle → s.defers i = false)

/-- A START or STARTSINGLE that comes while the step in progress has yet to move the cursor, and a STARTSINGLE that comes while the frame
boundary has yet to read MODE, stay on the command port, and the engine's operation runs (the model's choice, log 4). -/
def Obligations.StartWaitsForTheStepInProgress : Prop :=
  ∀ (s : State) (w : Word) (rest : List Event) (i : Instr), s.agenda = .command w :: rest → decode w = .ok i →
    i = .start ∨ i = .startsingle → s.busy = true → s.lead = 0 →
    s.phase = .stepB ∨ s.phase = .advance ∨ (i = .startsingle ∧ s.phase = .boundary) →
    step s = exec s.phase.operation s

/-- R92, R236: everywhere else a START or STARTSINGLE is taken at once, between ticks and inside one: while SELECT, STEP_A or RETURN is due,
and a START while BOUNDARY is due. That these are the places where it is taken is the model's reading of R92 (log 4). -/
def Obligations.StartIsTakenBetweenSteps : Prop :=
  ∀ (s : State) (w : Word) (rest : List Event) (i : Instr), s.agenda = .command w :: rest → decode w = .ok i →
    i = .start ∨ i = .startsingle →
    s.busy = false ∨ s.phase = .select ∨ s.phase = .stepA ∨ s.phase = .ret ∨ (i = .start ∧ s.phase = .boundary) →
    step s = exec i { s with agenda := rest }

/-- R119, R292: a word that is no command records IllegalCommand, is consumed, and changes nothing else. -/
def Obligations.IllegalWordRecordsTheFault : Prop :=
  ∀ (s : State) (w : Word) (rest : List Event), s.agenda = .command w :: rest →
    let op : Nat := w.toNat / 2 ^ 28
    ((op = 0 ∨ 10 ≤ op) ∨
      (2 ≤ op ∧ op ≤ 9 ∧ ∀ row ∈ encodingTable, row.pattern.toNat / 2 ^ 28 = op → w &&& row.mask ≠ row.pattern)) →
    step s = .next { s with agenda := rest, faults := { s.faults with illegalCommand := true } }

/-- R118, R120: a word decodes exactly when one row of the table selects it, to a command of that row's mnemonic, and no two rows select
one word. -/
def Obligations.DecodeAgreesWithTheTable : Prop :=
  ∀ w : Word,
    (∀ i, decode w = .ok i → ∃ row ∈ encodingTable, w &&& row.mask = row.pattern ∧ row.mnemonic = i.mnemonic) ∧
    (∀ row ∈ encodingTable, w &&& row.mask = row.pattern → ∃ i, decode w = .ok i ∧ i.mnemonic = row.mnemonic) ∧
    (∀ row ∈ encodingTable, ∀ row' ∈ encodingTable, w &&& row.mask = row.pattern → w &&& row'.mask = row'.pattern → row = row')

/-- R116: the operands are the sign-extended CH and ARG, and the zero-extended pin. -/
def Obligations.OperandsAreAssembledAsStated : Prop :=
  ∀ (w : Word) (i : Instr), decode w = .ok i →
    let f : Nat := w.toNat / 2 ^ 16 % 2 ^ 12
    let a : Nat := w.toNat % 2 ^ 16
    let ch : Int := if 2048 ≤ f then (f : Int) - 4096 else f
    let val : Int := if 32768 ≤ a then (a : Int) - 65536 else a
    (w.toNat / 2 ^ 28 = 1 → i = .write ch val) ∧
    (w.toNat / 2 ^ 28 = 2 → i = .setmax ch) ∧
    (w.toNat / 2 ^ 28 = 3 → i = .setpin (BitVec.ofNat 16 a)) ∧
    (w.toNat / 2 ^ 28 = 7 → i = .read ch)

/-- Decoding the word of a well-formed command gives the command back, with every operand at every value the encoding admits. -/
def Obligations.DecodeOfEncodeIsTheCommand : Prop :=
  ∀ i : Instr, i.isHost = true → i.wellFormed = true → ∃ w, encode i = some w ∧ decode w = .ok i

/-- A word that decodes is the word of the command it decodes to: no bit of it is dropped. -/
def Obligations.EncodeOfDecodeIsTheWord : Prop :=
  ∀ (w : Word) (i : Instr), decode w = .ok i → i.isHost = true ∧ i.wellFormed = true ∧ encode i = some w

/-- Words written out from R118 and R122 decode to the commands they stand for. -/
def Obligations.KnownWordsDecode : Prop :=
  decode 0x10050080 = .ok (.write 5 128) ∧ decode 0x1FFF0007 = .ok (.write (-1) 7) ∧ decode 0x10018000 = .ok (.write 1 (-32768)) ∧
  decode 0x2FFD0000 = .ok (.setmax (-3)) ∧ decode 0x3000FFFF = .ok (.setpin 65535) ∧ decode 0x40000000 = .ok .start ∧
  decode 0x50000000 = .ok .startsingle ∧ decode 0x60000000 = .ok .stop ∧ decode 0x7FFF0000 = .ok (.read (-1)) ∧
  decode 0x80000000 = .ok .readmax ∧ decode 0x90000000 = .ok .status ∧ decode 0x00000000 = .error .reservedOpcode ∧
  decode 0x30010003 = .error .nonzeroField

/-! ## Byte Transmitter -/

/-- R153, R154, R156: TXBYTE emits start bit, data bits from the least significant, two stop bits, one slot each; it returns 11 slots later
with the line high; and changes nothing but the line it drives and what time changes. -/
def Obligations.TxbyteEmitsTheFrame : Prop :=
  ∀ (v : Byte) (s : State), s.cfg.Valid → storeWf 0 s.portOut = true →
    let bit := fun i => if v.getLsbD i then Level.high else Level.low
    ∃ t, exec (.txbyte v) s = .next t ∧
      t.wire = s.wire ++ ([.low, bit 0, bit 1, bit 2, bit 3, bit 4, bit 5, bit 6, bit 7, .high, .high].map fun l => ⟨l, s.cfg.cpb⟩) ∧
      t.line = .high ∧ t.now = s.now + 11 * s.cfg.cpb ∧ DrivesOnly s t true ∧
      t.toMark = toMarkAfter s.cfg.tickCycles s.toMark (11 * s.cfg.cpb) ∧
      t.tickPend = pendAfter s.toMark (11 * s.cfg.cpb) s.tickPend ∧
      t = { s with line := t.line, portOut := t.portOut, now := t.now, toMark := t.toMark, tickPend := t.tickPend, wire := t.wire }

/-- R158, R159: BREAK holds the line low for exactly 22 slots, MAB high for exactly 2, and each changes nothing but the line it drives and
what time changes. -/
def Obligations.BreakAndMabHoldTheLine : Prop :=
  ∀ s : State, s.cfg.Valid → storeWf 0 s.portOut = true →
    (∃ t, exec .brk s = .next t ∧ t.wire = s.wire ++ List.replicate 22 ⟨.low, s.cfg.cpb⟩ ∧ t.line = .low ∧
      t.now = s.now + 22 * s.cfg.cpb ∧ DrivesOnly s t false ∧
      t.toMark = toMarkAfter s.cfg.tickCycles s.toMark (22 * s.cfg.cpb) ∧
      t.tickPend = pendAfter s.toMark (22 * s.cfg.cpb) s.tickPend ∧
      t = { s with line := t.line, portOut := t.portOut, now := t.now, toMark := t.toMark, tickPend := t.tickPend, wire := t.wire }) ∧
    (∃ t, exec .mab s = .next t ∧ t.wire = s.wire ++ List.replicate 2 ⟨.high, s.cfg.cpb⟩ ∧ t.line = .high ∧
      t.now = s.now + 2 * s.cfg.cpb ∧ DrivesOnly s t true ∧
      t.toMark = toMarkAfter s.cfg.tickCycles s.toMark (2 * s.cfg.cpb) ∧
      t.tickPend = pendAfter s.toMark (2 * s.cfg.cpb) s.tickPend ∧
      t = { s with line := t.line, portOut := t.portOut, now := t.now, toMark := t.toMark, tickPend := t.tickPend, wire := t.wire })

/-- The whole machine changes no GPIO output bit but those of the line PINDESC names (R83), reset apart. -/
def Obligations.OnlyTheSelectedLineIsDriven : Prop :=
  ∀ (s t : State) (port k : Nat), s.Inv → step s = .next t → s.resetNext = false →
    (t.portBits port).testBit k ≠ (s.portBits port).testBit k →
    ∃ d, t.pindesc = some d ∧ d.port = port ∧ d.mask.testBit k = true

/-- After any step of a transmission the line is high whenever no step emits (R152): it stays high until a START or STARTSINGLE or reset. -/
def Obligations.LineStaysHighBetweenSteps : Prop :=
  ∀ s t : State, s.Inv → s.line = .high → step s = .next t → s.resetNext = false → ¬ s.startNext → t.line = .high

/-! ## Frame State Machine -/

/-- R181: TICK clears the pending latch, sets BUSY, masks the source, loads the budget, and puts engine time L cycles ahead with L in
[0, L_MAX] (a free value, log 5); in a state of the invariant a line is selected then. -/
def Obligations.TickEntersWithTheBudget : Prop :=
  ∀ s : State, s.tie = true → s.busy = false → s.tickPend = true →
    (s.Inv → s.pindesc ≠ none) ∧
    ∃ latency, latency ≤ s.cfg.lMax ∧
      exec .tick s = .next { s with tickPend := false, busy := true, tie := false, rem := s.cfg.budgetBits, lead := latency,
                                    phase := .select, draws := s.draws + 1 }

/-- R182: SELECT takes the step whose cost the budget covers, equality included, and RETURN otherwise. -/
def Obligations.SelectChoosesTheStep : Prop :=
  ∀ s : State,
    (s.cursor = 0 → 35 ≤ s.rem → exec .select s = .next { s with phase := .stepA }) ∧
    (s.cursor = 0 → s.rem < 35 → exec .select s = .next { s with phase := .ret }) ∧
    (s.cursor ≠ 0 → 11 ≤ s.rem → exec .select s = .next { s with phase := .stepB }) ∧
    (s.cursor ≠ 0 → s.rem < 11 → exec .select s = .next { s with phase := .ret })

/-- R183: STEP_A takes 35 from the budget and emits 22 low slots, 2 high slots and the byte 0x00, with no gap. -/
def Obligations.StepAEmitsBreakMabAndStartCode : Prop :=
  ∀ s : State, s.cfg.Valid → storeWf 0 s.portOut = true → 35 ≤ s.rem →
    ∃ t, exec .stepA s = .next t ∧ t.rem + 35 = s.rem ∧ t.phase = .advance ∧
      t.wire = s.wire ++ ((List.replicate 22 Level.low ++ List.replicate 2 Level.high ++ List.replicate 9 Level.low ++ List.replicate 2 Level.high).map
        fun l => ⟨l, s.cfg.cpb⟩) ∧
      t.line = .high ∧ t.now = s.now + 35 * s.cfg.cpb ∧ DrivesOnly s t true ∧
      t.toMark = toMarkAfter s.cfg.tickCycles s.toMark (35 * s.cfg.cpb) ∧
      t.tickPend = pendAfter s.toMark (35 * s.cfg.cpb) s.tickPend ∧
      t = { s with rem := t.rem, phase := t.phase, line := t.line, portOut := t.portOut, now := t.now, toMark := t.toMark,
                   tickPend := t.tickPend, wire := t.wire }

/-- R184: STEP_B takes 11 from the budget and emits the byte of channel CURSOR. -/
def Obligations.StepBEmitsTheChannel : Prop :=
  ∀ s : State, s.cfg.Valid → storeWf 0 s.portOut = true → 11 ≤ s.rem → 1 ≤ s.cursor.toNat → s.cursor.toNat ≤ s.cfg.capacity.size →
    ∃ t v, exec .stepB s = .next t ∧ s.bufRead s.cursor.toNat = some v ∧ t.rem + 11 = s.rem ∧ t.phase = .advance ∧
      t.wire = s.wire ++ ((frame v).map fun l => ⟨l, s.cfg.cpb⟩) ∧
      t.line = .high ∧ t.now = s.now + 11 * s.cfg.cpb ∧ DrivesOnly s t true ∧
      t.toMark = toMarkAfter s.cfg.tickCycles s.toMark (11 * s.cfg.cpb) ∧
      t.tickPend = pendAfter s.toMark (11 * s.cfg.cpb) s.tickPend ∧
      t = { s with rem := t.rem, phase := t.phase, line := t.line, portOut := t.portOut, now := t.now, toMark := t.toMark,
                   tickPend := t.tickPend, wire := t.wire }

/-- STEP_B stops the model where CURSOR names no channel: BufRead is defined for 1 to CAPACITY only (R81, log 12). -/
def Obligations.StepBStopsOffTheBuffer : Prop :=
  ∀ s : State, s.cursor.toNat < 1 ∨ s.cfg.capacity.size < s.cursor.toNat →
    exec .stepB s = .fault (.absentChannel s.cursor.toNat)

/-- R186: ADVANCE moves the cursor, and wraps it to 0 strictly after it exceeds MAXCH. -/
def Obligations.AdvanceWrapsPastTheCount : Prop :=
  ∀ s : State,
    ∃ t, exec .advance s = .next t ∧ t = { s with cursor := t.cursor, phase := t.phase } ∧
      (s.maxch.toNat < s.cursor.toNat + 1 → t.cursor = 0 ∧ t.phase = .boundary) ∧
      (s.cursor.toNat + 1 ≤ s.maxch.toNat → t.cursor.toNat = s.cursor.toNat + 1 ∧ t.phase = .select)

/-- R187: a boundary outside Continuous mode disables, masks the source and ends the tick; in Continuous mode the tick goes on. That the
phase rests at SELECT after a tick is the model's choice (log 10). -/
def Obligations.BoundaryEndsUnlessContinuous : Prop :=
  ∀ s : State,
    (s.mode = .continuous → exec .boundary s = .next { s with phase := .select }) ∧
    (s.mode ≠ .continuous →
      exec .boundary s = .next { s with mode := .disabled, tie := false, busy := false, phase := .select })

/-- R188: RETURN enables the source again unless the mode is Disabled, and clears BUSY. That the phase rests at SELECT after it is the
model's choice (log 10). -/
def Obligations.ReturnEnablesUnlessDisabled : Prop :=
  ∀ s : State,
    (s.mode = .disabled → exec .ret s = .next { s with tie := false, busy := false, phase := .select }) ∧
    (s.mode ≠ .disabled → exec .ret s = .next { s with tie := true, busy := false, phase := .select })

/-- The engine's turn runs the operation its phase names once engine time is reached, and TICK when a tick can be delivered, both with an
empty agenda and on an `engine` entry (which agent moves is the model's data, log 3). -/
def Obligations.EngineRunsTheSelectedOperation : Prop :=
  ∀ s : State,
    (s.busy = true → s.lead = 0 → s.agenda = [] → step s = exec s.phase.operation s) ∧
    (s.tie = true → s.busy = false → s.tickPend = true → s.agenda = [] → step s = exec .tick s) ∧
    (∀ rest, s.busy = true → s.lead = 0 → s.agenda = .engine :: rest → step s = exec s.phase.operation { s with agenda := rest }) ∧
    (∀ rest, s.tie = true → s.busy = false → s.tickPend = true → s.agenda = .engine :: rest →
      step s = exec .tick { s with agenda := rest })

/-- R189: with no host command during the tick, the engine's operations run from a delivery to the state the one procedure `onTick` gives.
The empty agenda is one of the orders R299 admits (the model's choice, log 3). -/
def Obligations.TickAgreesWithTheProcedure : Prop :=
  ∀ s : State, s.Inv → s.tie = true → s.busy = false → s.tickPend = true → s.agenda = [] →
    ∃ k t, s.onTick = some t ∧ Host.Core.run Sys2Proof.core k s = .next t

/-- R191, R199: a tick with no host command during it runs to its end, which is the state of the one procedure `onTick` and has drawn one
latency: after that latency, at most L_MAX, come nothing but whole steps on the wire (none is a STEP_A, some v a STEP_B that sends v) whose
cost is within the budget, and the end is at the cycle the rule gives. The empty agenda is one of the orders R299 admits (the model's choice,
log 3). -/
def Obligations.TickEndsWithinItsBudget : Prop :=
  ∀ s : State, s.Inv → s.tie = true → s.busy = false → s.tickPend = true → s.agenda = [] →
    ∃ (k : Nat) (t : State) (latency : Nat) (steps : List (Option Byte)),
      let cost := (steps.map fun st => st.elim 35 fun _ => 11).sum
      Host.Core.run Sys2Proof.core k s = .next t ∧ s.onTick = some t ∧ t.draws = s.draws + 1 ∧ t.busy = false ∧
        latency ≤ s.cfg.lMax ∧ cost ≤ s.cfg.budgetBits ∧ t.now = s.now + latency + cost * s.cfg.cpb ∧
        t.wire = s.wire ++ idleSegs s.line latency ++ steps.flatMap fun st => slots s.cfg (st.elim stepALevels frame)

/-- R192: a tick whose budget does not cover the first step is taken (it ends in the state of `onTick` and has drawn its latency), emits
nothing and leaves cursor, mode and line alone. REM keeps the unused budget and the phase rests at SELECT (the model's choice, log 10), and the
empty agenda is one of the orders R299 admits (the model's choice, log 3). -/
def Obligations.ZeroStepTickEmitsNothing : Prop :=
  ∀ s : State, s.Inv → s.tie = true → s.busy = false → s.tickPend = true → s.agenda = [] →
    (s.cursor = 0 ∧ s.cfg.budgetBits < 35 ∨ s.cursor ≠ 0 ∧ s.cfg.budgetBits < 11) →
    ∃ (k : Nat) (t : State) (latency : Nat), Host.Core.run Sys2Proof.core k s = .next t ∧ s.onTick = some t ∧ latency ≤ s.cfg.lMax ∧
      t.wire = s.wire ++ idleSegs s.line latency ∧
      t = { s with tickPend := t.tickPend, rem := s.cfg.budgetBits, tie := true, now := s.now + latency, toMark := t.toMark,
                   wire := t.wire, draws := s.draws + 1 }

/-- R113, R196: a SingleShot tick whose budget covers the frame emits, after the latency, exactly one whole frame, and leaves the block
disabled with the source masked. The empty agenda is one of the orders R299 admits (the model's choice, log 3). -/
def Obligations.SingleShotSendsExactlyOneFrame : Prop :=
  ∀ s : State, s.Inv → s.mode = .singleShot → s.cursor = 0 → s.busy = false → s.tickPend = true → s.agenda = [] →
    35 + 11 * s.maxch.toNat ≤ s.cfg.budgetBits →
    ∃ k t latency, Host.Core.run Sys2Proof.core k s = .next t ∧ latency ≤ s.cfg.lMax ∧
      t.wire = s.wire ++ idleSegs s.line latency ++ slots s.cfg (frameLevels s s.maxch.toNat) ∧
      t.now = s.now + latency + (35 + 11 * s.maxch.toNat) * s.cfg.cpb ∧
      t.mode = .disabled ∧ t.tie = false ∧ t.busy = false ∧ t.cursor = 0 ∧ t.line = .high ∧ t.buf = s.buf ∧ t.maxch = s.maxch

/-- R336: with a budget below 35 a transmission that waits for Step A never emits: no transition but reset leads out of it, and none is a
step. -/
def Obligations.StarvedTransmissionNeverEmits : Prop :=
  ∀ s t : State, s.Starved → step s = .next t → s.resetNext = false →
    t.Starved ∧ s.engineOp ≠ some .stepA ∧ s.engineOp ≠ some .stepB ∧
      ∃ n, t.now = s.now + n ∧ t.wire = s.wire ++ idleSegs s.line n

/-! ## The tick source and time -/

/-- The closed form of the tick source is the cycle-by-cycle source of R296. -/
def Obligations.TickSourceIsCycleByCycle : Prop :=
  ∀ (period toMark n : Nat) (pend : Bool), 1 ≤ period →
    (pendAfter toMark n pend, toMarkAfter period toMark n) = (tickSourceCycle period)^[n] (pend, toMark)

/-- R297: BUSY rises only by a delivery with TIE = 1 and TICK_PEND = 1, which clears both and loads the budget; it falls only by RETURN, a
boundary, or reset (R200, R301). -/
def Obligations.BusyRisesOnlyByDelivery : Prop :=
  ∀ s t : State, step s = .next t →
    (s.busy = false → t.busy = true →
      s.tie = true ∧ s.tickPend = true ∧ t.tie = false ∧ t.tickPend = false ∧ t.rem = s.cfg.budgetBits ∧ t.phase = .select) ∧
    (s.busy = true → t.busy = false → s.resetNext = false → s.phase = .ret ∨ (s.phase = .boundary ∧ s.mode ≠ .continuous))

/-- R297: a delivery is taken at the first cycle at which it can be: no time passes while one is due. -/
def Obligations.NoTimePassesADueDelivery : Prop :=
  ∀ s t : State, s.tie = true → s.busy = false → s.tickPend = true → step s = .next t → s.resetNext = false → t.now = s.now

/-- R296: the tick source's mark, when due, sets TICK_PEND and is followed by the next after TICK_CYCLES; an entry for a mark that is not
due has no effect (log 3). -/
def Obligations.DueMarkSetsPending : Prop :=
  ∀ (s : State) (rest : List Event), s.agenda = .mark :: rest →
    (s.toMark = 0 → step s = .next { s with agenda := rest, tickPend := true, toMark := s.cfg.tickCycles }) ∧
    (s.toMark ≠ 0 → step s = .next { s with agenda := rest })

/-- With nothing on the agenda and no engine operation due, an idle block lets time pass to the next mark, which sets TICK_PEND (which agent
moves is the model's choice, log 3). -/
def Obligations.IdleBlockWaitsForTheMark : Prop :=
  ∀ s : State, s.agenda = [] → s.busy = false → (s.tie = false ∨ s.tickPend = false) →
    step s = .next { s with now := s.now + s.toMark, tickPend := true, toMark := s.cfg.tickCycles,
                            wire := s.wire ++ idleSegs s.line s.toMark }

/-- R15, R12: every transition but reset appends to the wire trace exactly the cycles it takes. -/
def Obligations.WireTraceFollowsTime : Prop :=
  ∀ s t : State, step s = .next t → s.resetNext = false → ∃ w, t.wire = s.wire ++ w ∧ t.now = s.now + wireCycles w

/-- Host commands take no time (R345): they keep the cycle and the wire trace, the marks and TICK_PEND (R295), BUSY, REM, the phase and engine
time of a tick in progress, GIE, the configuration and the agenda. CURSOR, TIE, MODE and the line are not among these: START, STARTSINGLE and
STOP write them. -/
def Obligations.HostCommandsTakeNoTime : Prop :=
  ∀ (i : Instr) (s t : State), i.isHost = true → exec i s = .next t →
    t.now = s.now ∧ t.wire = s.wire ∧ t.toMark = s.toMark ∧ t.tickPend = s.tickPend ∧ t.tickPhase = s.tickPhase ∧
    t.busy = s.busy ∧ t.rem = s.rem ∧ t.phase = s.phase ∧ t.lead = s.lead ∧ t.gie = s.gie ∧ t.cfg = s.cfg ∧ t.agenda = s.agenda

/-! ## Whole-machine rules -/

/-- Who writes what (R35, R36, R37, R39, R41, R42, R43, R54): reset apart, CURSOR changes only by ADVANCE, START and STARTSINGLE, MAXCH only by
WRITE and SETMAX, PINSEL only by SETPIN, MODE only by START, STARTSINGLE, STOP and a boundary, TIE only by those and by TICK and RETURN,
PINDESC and PINDIR only by START and STARTSINGLE; and the operation named is the one that is taken. -/
def Obligations.RegistersChangeOnlyByTheirWriters : Prop :=
  ∀ s t : State, step s = .next t → s.resetNext = false →
    (t.cursor ≠ s.cursor → s.startNext ∨ s.operationNext .advance) ∧
    (t.maxch ≠ s.maxch → (∃ ch val, s.commandNext (.write ch val)) ∨ ∃ ch, s.commandNext (.setmax ch)) ∧
    (t.pinsel ≠ s.pinsel → ∃ pin, s.commandNext (.setpin pin)) ∧
    (t.mode ≠ s.mode → s.startNext ∨ s.commandNext .stop ∨ s.operationNext .boundary) ∧
    (t.tie ≠ s.tie →
      s.startNext ∨ s.commandNext .stop ∨ s.operationNext .tick ∨ s.operationNext .ret ∨ s.operationNext .boundary) ∧
    (t.pindesc ≠ s.pindesc ∨ t.pindir ≠ s.pindir → s.startNext)

/-- Who writes the state of a tick and the line (R44, R45, R46, R295): reset apart, LINE changes only by START, STARTSINGLE, STEP_A and STEP_B,
BUSY only by TICK, RETURN and a boundary outside Continuous mode, REM only by TICK, STEP_A and STEP_B, the phase only by an operation of the
engine, and TICK_PEND is cleared only by TICK; and the operation named is the one that is taken. -/
def Obligations.TickStateChangesOnlyByItsWriters : Prop :=
  ∀ s t : State, step s = .next t → s.resetNext = false →
    (t.line ≠ s.line → s.startNext ∨ s.operationNext .stepA ∨ s.operationNext .stepB) ∧
    (t.busy ≠ s.busy → s.operationNext .tick ∨ s.operationNext .ret ∨ (s.operationNext .boundary ∧ s.mode ≠ .continuous)) ∧
    (t.rem ≠ s.rem → s.operationNext .tick ∨ s.operationNext .stepA ∨ s.operationNext .stepB) ∧
    (t.phase ≠ s.phase → ∃ i, s.operationNext i) ∧
    (s.tickPend = true → t.tickPend = false → s.operationNext .tick)

/-- R33, R50: no transition changes the configuration, and every transition but reset leaves the platform's interrupt enable as it found
it. -/
def Obligations.ConfigAndInterruptEnableAreKept : Prop :=
  ∀ s t : State, step s = .next t → t.cfg = s.cfg ∧ (s.resetNext = false → t.gie = s.gie)

/-- R49: recorded faults stay recorded until reset. -/
def Obligations.FaultsAreSticky : Prop :=
  ∀ (s t : State) (code : FaultCode), step s = .next t → s.resetNext = false → s.faults.has code = true → t.faults.has code = true

/-- R290, R302: the engine records no fault: FAULTS changes only on a host command or reset. -/
def Obligations.EngineRecordsNoFault : Prop :=
  ∀ s t : State, step s = .next t → t.faults ≠ s.faults →
    ∃ e rest, s.agenda = e :: rest ∧ ((∃ w, e = .command w) ∨ ∃ n, e = .reset n)

/-- The invariant holds after reset, for every allowed set of parameters. -/
def Obligations.InvariantHoldsAtReset : Prop :=
  ∀ cfg draws, cfg.Valid → (State.resetWith cfg draws).Inv

/-- Every transition keeps the invariant: the canonical forms, the ranges of MAXCH, CURSOR and REM (R38, R55, R190), the enable invariant
(R40), the pin and line facts (R42, R44), and the grid of marks (R296). What a phase promises of the cursor rests on START waiting while a step
has yet to move it (the model's choice, log 4), and the phase at rest is the model's choice (log 10). -/
def Obligations.StepKeepsTheInvariant : Prop :=
  ∀ s t : State, s.Inv → step s = .next t → t.Inv

/-- From a state of the invariant the machine never stops: every transition has a next state, so no engine operation faults (R290) and
STEP_B never leaves the buffer (R82). That a START cannot come between SELECT and STEP_B, where it would, is the model's choice (log 4). -/
def Obligations.MachineNeverStops : Prop :=
  ∀ s : State, s.Inv → ∃ t, step s = .next t
end

