-- ==== Sys2Proof/Laws/Memory.lean ====
section
/-! SUPPORT. Sparse stores: read after write, the canonical form is kept, and the Channel Buffer over them. -/

namespace Sys2Proof.Machine

variable {V : Type} {dflt : V}

theorem storeAbove_iff {lo : Nat} {m : List (Nat × V)} : storeAbove lo m = true ↔ ∀ e ∈ m, lo < e.1 := by
  simp [storeAbove]

theorem storeGet_of_above {a : Nat} {m : List (Nat × V)} (h : storeAbove a m = true) : storeGet dflt m a = dflt := by
  induction m with
  | nil => rfl
  | cons e rest ih =>
    obtain ⟨k, v⟩ := e
    rw [storeAbove_iff] at h
    have hk : a < k := h (k, v) (by simp)
    simp only [storeGet, if_neg (Nat.ne_of_lt hk)]
    exact ih (storeAbove_iff.2 fun e he => h e (by simp [he]))

variable [DecidableEq V]

theorem storeGet_storeSet_other {m : List (Nat × V)} {a b : Nat} (v : V) (h : b ≠ a) :
    storeGet dflt (storeSet dflt m a v) b = storeGet dflt m b := by
  induction m with
  | nil => by_cases hv : v = dflt <;> simp [storeSet, storeGet, hv, h]
  | cons e rest ih =>
    obtain ⟨k, w⟩ := e
    simp only [storeSet]
    split_ifs with h1 h2 h3 h4
    · rfl
    · simp [storeGet, h]
    · subst h3; simp [storeGet, h]
    · subst h3; simp [storeGet, h]
    · simp only [storeGet, ih]

theorem storeGet_storeSet_same {m : List (Nat × V)} (a : Nat) (v : V) (h : storeWf dflt m = true) :
    storeGet dflt (storeSet dflt m a v) a = v := by
  induction m with
  | nil => by_cases hv : v = dflt <;> simp [storeSet, storeGet, hv]
  | cons e rest ih =>
    obtain ⟨k, w⟩ := e
    simp only [storeWf, Bool.and_eq_true, decide_eq_true_eq] at h
    obtain ⟨⟨-, habove⟩, hrest⟩ := h
    simp only [storeSet]
    split_ifs with h1 h2 h3 h4
    · subst h2
      simp only [storeGet, if_neg (Nat.ne_of_lt h1)]
      exact storeGet_of_above (storeAbove_iff.2 fun e he => Nat.lt_trans h1 (storeAbove_iff.1 habove e he))
    · simp [storeGet]
    · subst h3 h4; exact storeGet_of_above habove
    · simp [storeGet]
    · simp only [storeGet, if_neg h3, ih hrest]

theorem storeSet_keys {m : List (Nat × V)} {a : Nat} {v : V} {e : Nat × V} (h : e ∈ storeSet dflt m a v) : e ∈ m ∨ e.1 = a := by
  induction m with
  | nil => by_cases hv : v = dflt <;> simp_all [storeSet]
  | cons f rest ih =>
    obtain ⟨k, w⟩ := f
    simp only [storeSet] at h
    split_ifs at h <;> simp only [List.mem_cons] at h ⊢
    · exact .inl h
    · rcases h with rfl | h
      · exact .inr rfl
      · exact .inl h
    · exact .inl (.inr h)
    · rcases h with rfl | h
      · exact .inr rfl
      · exact .inl (.inr h)
    · rcases h with rfl | h
      · exact .inl (.inl rfl)
      · exact (ih h).imp .inr id

theorem storeSet_wf {m : List (Nat × V)} (a : Nat) (v : V) (h : storeWf dflt m = true) : storeWf dflt (storeSet dflt m a v) = true := by
  induction m with
  | nil => by_cases hv : v = dflt <;> simp [storeSet, storeWf, storeAbove, hv]
  | cons e rest ih =>
    obtain ⟨k, w⟩ := e
    have hwf := h
    simp only [storeWf, Bool.and_eq_true, decide_eq_true_eq] at h
    obtain ⟨⟨hw, habove⟩, hrest⟩ := h
    simp only [storeSet]
    split_ifs with h1 h2 h3 h4
    · exact hwf
    · have : storeAbove a ((k, w) :: rest) = true := storeAbove_iff.2 fun e he => by
        rcases List.mem_cons.1 he with rfl | he
        · exact h1
        · exact Nat.lt_trans h1 (storeAbove_iff.1 habove e he)
      simp [storeWf, h2, this, hw, habove, hrest]
    · exact hrest
    · subst h3; simp [storeWf, h4, habove, hrest]
    · have : storeAbove k (storeSet dflt rest a v) = true := storeAbove_iff.2 fun e he => by
        rcases storeSet_keys he with he | rfl
        · exact storeAbove_iff.1 habove e he
        · omega
      simp [storeWf, hw, this, ih hrest]

/-! ## The Channel Buffer -/

theorem Memory.write_wf {m : List Host.Cell} (c : Nat) (v : Byte) (h : Memory.wf m = true) : Memory.wf (Memory.write m c v) = true :=
  storeSet_wf c v h

theorem Memory.read_write_same {m : List Host.Cell} (c : Nat) (v : Byte) (h : Memory.wf m = true) :
    Memory.read (Memory.write m c v) c = v :=
  storeGet_storeSet_same c v h

theorem Memory.read_write_other {m : List Host.Cell} {c c' : Nat} (v : Byte) (h : c' ≠ c) :
    Memory.read (Memory.write m c v) c' = Memory.read m c' :=
  storeGet_storeSet_other v h

theorem Memory.write_channels {m : List Host.Cell} {c : Nat} {v : Byte} {e : Host.Cell} (h : e ∈ Memory.write m c v) :
    e ∈ m ∨ e.1 = c :=
  storeSet_keys h

/-- Reset memory has the canonical form, and every channel of it holds 0 (10 R34). -/
theorem Memory.wf_empty : Memory.wf [] = true := rfl

theorem Memory.read_empty (c : Nat) : Memory.read [] c = 0 := rfl

end Sys2Proof.Machine
end

