-- ==== Sys2Proof/Laws/State.lean ====
section
/-! SUPPORT. What each shared update does to each field of the state, one lemma for each field, true by rfl. -/

namespace Sys2Proof.Machine

@[simp] theorem State.bufWrite_cfg (s : State) (c : Nat) (v : Byte) : (s.bufWrite c v).cfg = s.cfg := rfl
@[simp] theorem State.bufWrite_buf (s : State) (c : Nat) (v : Byte) : (s.bufWrite c v).buf = Memory.write s.buf c v := rfl
@[simp] theorem State.bufWrite_maxch (s : State) (c : Nat) (v : Byte) : (s.bufWrite c v).maxch = s.maxch := rfl
@[simp] theorem State.bufWrite_mode (s : State) (c : Nat) (v : Byte) : (s.bufWrite c v).mode = s.mode := rfl
@[simp] theorem State.bufWrite_cursor (s : State) (c : Nat) (v : Byte) : (s.bufWrite c v).cursor = s.cursor := rfl
@[simp] theorem State.bufWrite_tie (s : State) (c : Nat) (v : Byte) : (s.bufWrite c v).tie = s.tie := rfl
@[simp] theorem State.bufWrite_pinsel (s : State) (c : Nat) (v : Byte) : (s.bufWrite c v).pinsel = s.pinsel := rfl
@[simp] theorem State.bufWrite_pindesc (s : State) (c : Nat) (v : Byte) : (s.bufWrite c v).pindesc = s.pindesc := rfl
@[simp] theorem State.bufWrite_pindir (s : State) (c : Nat) (v : Byte) : (s.bufWrite c v).pindir = s.pindir := rfl
@[simp] theorem State.bufWrite_line (s : State) (c : Nat) (v : Byte) : (s.bufWrite c v).line = s.line := rfl
@[simp] theorem State.bufWrite_busy (s : State) (c : Nat) (v : Byte) : (s.bufWrite c v).busy = s.busy := rfl
@[simp] theorem State.bufWrite_rem (s : State) (c : Nat) (v : Byte) : (s.bufWrite c v).rem = s.rem := rfl
@[simp] theorem State.bufWrite_tickPend (s : State) (c : Nat) (v : Byte) : (s.bufWrite c v).tickPend = s.tickPend := rfl
@[simp] theorem State.bufWrite_faults (s : State) (c : Nat) (v : Byte) : (s.bufWrite c v).faults = s.faults := rfl
@[simp] theorem State.bufWrite_phase (s : State) (c : Nat) (v : Byte) : (s.bufWrite c v).phase = s.phase := rfl
@[simp] theorem State.bufWrite_lead (s : State) (c : Nat) (v : Byte) : (s.bufWrite c v).lead = s.lead := rfl
@[simp] theorem State.bufWrite_now (s : State) (c : Nat) (v : Byte) : (s.bufWrite c v).now = s.now := rfl
@[simp] theorem State.bufWrite_tickPhase (s : State) (c : Nat) (v : Byte) : (s.bufWrite c v).tickPhase = s.tickPhase := rfl
@[simp] theorem State.bufWrite_toMark (s : State) (c : Nat) (v : Byte) : (s.bufWrite c v).toMark = s.toMark := rfl
@[simp] theorem State.bufWrite_portOut (s : State) (c : Nat) (v : Byte) : (s.bufWrite c v).portOut = s.portOut := rfl
@[simp] theorem State.bufWrite_portDir (s : State) (c : Nat) (v : Byte) : (s.bufWrite c v).portDir = s.portDir := rfl
@[simp] theorem State.bufWrite_gie (s : State) (c : Nat) (v : Byte) : (s.bufWrite c v).gie = s.gie := rfl
@[simp] theorem State.bufWrite_wire (s : State) (c : Nat) (v : Byte) : (s.bufWrite c v).wire = s.wire := rfl
@[simp] theorem State.bufWrite_responses (s : State) (c : Nat) (v : Byte) : (s.bufWrite c v).responses = s.responses := rfl
@[simp] theorem State.bufWrite_draws (s : State) (c : Nat) (v : Byte) : (s.bufWrite c v).draws = s.draws := rfl
@[simp] theorem State.bufWrite_agenda (s : State) (c : Nat) (v : Byte) : (s.bufWrite c v).agenda = s.agenda := rfl

@[simp] theorem State.raiseFault_cfg (s : State) (code : FaultCode) : (s.raiseFault code).cfg = s.cfg := rfl
@[simp] theorem State.raiseFault_buf (s : State) (code : FaultCode) : (s.raiseFault code).buf = s.buf := rfl
@[simp] theorem State.raiseFault_maxch (s : State) (code : FaultCode) : (s.raiseFault code).maxch = s.maxch := rfl
@[simp] theorem State.raiseFault_mode (s : State) (code : FaultCode) : (s.raiseFault code).mode = s.mode := rfl
@[simp] theorem State.raiseFault_cursor (s : State) (code : FaultCode) : (s.raiseFault code).cursor = s.cursor := rfl
@[simp] theorem State.raiseFault_tie (s : State) (code : FaultCode) : (s.raiseFault code).tie = s.tie := rfl
@[simp] theorem State.raiseFault_pinsel (s : State) (code : FaultCode) : (s.raiseFault code).pinsel = s.pinsel := rfl
@[simp] theorem State.raiseFault_pindesc (s : State) (code : FaultCode) : (s.raiseFault code).pindesc = s.pindesc := rfl
@[simp] theorem State.raiseFault_pindir (s : State) (code : FaultCode) : (s.raiseFault code).pindir = s.pindir := rfl
@[simp] theorem State.raiseFault_line (s : State) (code : FaultCode) : (s.raiseFault code).line = s.line := rfl
@[simp] theorem State.raiseFault_busy (s : State) (code : FaultCode) : (s.raiseFault code).busy = s.busy := rfl
@[simp] theorem State.raiseFault_rem (s : State) (code : FaultCode) : (s.raiseFault code).rem = s.rem := rfl
@[simp] theorem State.raiseFault_tickPend (s : State) (code : FaultCode) : (s.raiseFault code).tickPend = s.tickPend := rfl
@[simp] theorem State.raiseFault_faults (s : State) (code : FaultCode) : (s.raiseFault code).faults = s.faults.insert code := rfl
@[simp] theorem State.raiseFault_phase (s : State) (code : FaultCode) : (s.raiseFault code).phase = s.phase := rfl
@[simp] theorem State.raiseFault_lead (s : State) (code : FaultCode) : (s.raiseFault code).lead = s.lead := rfl
@[simp] theorem State.raiseFault_now (s : State) (code : FaultCode) : (s.raiseFault code).now = s.now := rfl
@[simp] theorem State.raiseFault_tickPhase (s : State) (code : FaultCode) : (s.raiseFault code).tickPhase = s.tickPhase := rfl
@[simp] theorem State.raiseFault_toMark (s : State) (code : FaultCode) : (s.raiseFault code).toMark = s.toMark := rfl
@[simp] theorem State.raiseFault_portOut (s : State) (code : FaultCode) : (s.raiseFault code).portOut = s.portOut := rfl
@[simp] theorem State.raiseFault_portDir (s : State) (code : FaultCode) : (s.raiseFault code).portDir = s.portDir := rfl
@[simp] theorem State.raiseFault_gie (s : State) (code : FaultCode) : (s.raiseFault code).gie = s.gie := rfl
@[simp] theorem State.raiseFault_wire (s : State) (code : FaultCode) : (s.raiseFault code).wire = s.wire := rfl
@[simp] theorem State.raiseFault_responses (s : State) (code : FaultCode) : (s.raiseFault code).responses = s.responses := rfl
@[simp] theorem State.raiseFault_draws (s : State) (code : FaultCode) : (s.raiseFault code).draws = s.draws := rfl
@[simp] theorem State.raiseFault_agenda (s : State) (code : FaultCode) : (s.raiseFault code).agenda = s.agenda := rfl

@[simp] theorem State.respond_cfg (s : State) (w : Word) : (s.respond w).cfg = s.cfg := rfl
@[simp] theorem State.respond_buf (s : State) (w : Word) : (s.respond w).buf = s.buf := rfl
@[simp] theorem State.respond_maxch (s : State) (w : Word) : (s.respond w).maxch = s.maxch := rfl
@[simp] theorem State.respond_mode (s : State) (w : Word) : (s.respond w).mode = s.mode := rfl
@[simp] theorem State.respond_cursor (s : State) (w : Word) : (s.respond w).cursor = s.cursor := rfl
@[simp] theorem State.respond_tie (s : State) (w : Word) : (s.respond w).tie = s.tie := rfl
@[simp] theorem State.respond_pinsel (s : State) (w : Word) : (s.respond w).pinsel = s.pinsel := rfl
@[simp] theorem State.respond_pindesc (s : State) (w : Word) : (s.respond w).pindesc = s.pindesc := rfl
@[simp] theorem State.respond_pindir (s : State) (w : Word) : (s.respond w).pindir = s.pindir := rfl
@[simp] theorem State.respond_line (s : State) (w : Word) : (s.respond w).line = s.line := rfl
@[simp] theorem State.respond_busy (s : State) (w : Word) : (s.respond w).busy = s.busy := rfl
@[simp] theorem State.respond_rem (s : State) (w : Word) : (s.respond w).rem = s.rem := rfl
@[simp] theorem State.respond_tickPend (s : State) (w : Word) : (s.respond w).tickPend = s.tickPend := rfl
@[simp] theorem State.respond_faults (s : State) (w : Word) : (s.respond w).faults = s.faults := rfl
@[simp] theorem State.respond_phase (s : State) (w : Word) : (s.respond w).phase = s.phase := rfl
@[simp] theorem State.respond_lead (s : State) (w : Word) : (s.respond w).lead = s.lead := rfl
@[simp] theorem State.respond_now (s : State) (w : Word) : (s.respond w).now = s.now := rfl
@[simp] theorem State.respond_tickPhase (s : State) (w : Word) : (s.respond w).tickPhase = s.tickPhase := rfl
@[simp] theorem State.respond_toMark (s : State) (w : Word) : (s.respond w).toMark = s.toMark := rfl
@[simp] theorem State.respond_portOut (s : State) (w : Word) : (s.respond w).portOut = s.portOut := rfl
@[simp] theorem State.respond_portDir (s : State) (w : Word) : (s.respond w).portDir = s.portDir := rfl
@[simp] theorem State.respond_gie (s : State) (w : Word) : (s.respond w).gie = s.gie := rfl
@[simp] theorem State.respond_wire (s : State) (w : Word) : (s.respond w).wire = s.wire := rfl
@[simp] theorem State.respond_responses (s : State) (w : Word) : (s.respond w).responses = s.responses ++ [w] := rfl
@[simp] theorem State.respond_draws (s : State) (w : Word) : (s.respond w).draws = s.draws := rfl
@[simp] theorem State.respond_agenda (s : State) (w : Word) : (s.respond w).agenda = s.agenda := rfl

@[simp] theorem State.enterTick_cfg (s : State) : (s.enterTick).cfg = s.cfg := rfl
@[simp] theorem State.enterTick_buf (s : State) : (s.enterTick).buf = s.buf := rfl
@[simp] theorem State.enterTick_maxch (s : State) : (s.enterTick).maxch = s.maxch := rfl
@[simp] theorem State.enterTick_mode (s : State) : (s.enterTick).mode = s.mode := rfl
@[simp] theorem State.enterTick_cursor (s : State) : (s.enterTick).cursor = s.cursor := rfl
@[simp] theorem State.enterTick_tie (s : State) : (s.enterTick).tie = false := rfl
@[simp] theorem State.enterTick_pinsel (s : State) : (s.enterTick).pinsel = s.pinsel := rfl
@[simp] theorem State.enterTick_pindesc (s : State) : (s.enterTick).pindesc = s.pindesc := rfl
@[simp] theorem State.enterTick_pindir (s : State) : (s.enterTick).pindir = s.pindir := rfl
@[simp] theorem State.enterTick_line (s : State) : (s.enterTick).line = s.line := rfl
@[simp] theorem State.enterTick_busy (s : State) : (s.enterTick).busy = true := rfl
@[simp] theorem State.enterTick_rem (s : State) : (s.enterTick).rem = s.cfg.budgetBits := rfl
@[simp] theorem State.enterTick_tickPend (s : State) : (s.enterTick).tickPend = false := rfl
@[simp] theorem State.enterTick_faults (s : State) : (s.enterTick).faults = s.faults := rfl
@[simp] theorem State.enterTick_phase (s : State) : (s.enterTick).phase = .select := rfl
@[simp] theorem State.enterTick_lead (s : State) : (s.enterTick).lead = drawLatency s.cfg s.draws := rfl
@[simp] theorem State.enterTick_now (s : State) : (s.enterTick).now = s.now := rfl
@[simp] theorem State.enterTick_tickPhase (s : State) : (s.enterTick).tickPhase = s.tickPhase := rfl
@[simp] theorem State.enterTick_toMark (s : State) : (s.enterTick).toMark = s.toMark := rfl
@[simp] theorem State.enterTick_portOut (s : State) : (s.enterTick).portOut = s.portOut := rfl
@[simp] theorem State.enterTick_portDir (s : State) : (s.enterTick).portDir = s.portDir := rfl
@[simp] theorem State.enterTick_gie (s : State) : (s.enterTick).gie = s.gie := rfl
@[simp] theorem State.enterTick_wire (s : State) : (s.enterTick).wire = s.wire := rfl
@[simp] theorem State.enterTick_responses (s : State) : (s.enterTick).responses = s.responses := rfl
@[simp] theorem State.enterTick_draws (s : State) : (s.enterTick).draws = s.draws + 1 := rfl
@[simp] theorem State.enterTick_agenda (s : State) : (s.enterTick).agenda = s.agenda := rfl

@[simp] theorem State.leaveTick_cfg (s : State) : (s.leaveTick).cfg = s.cfg := rfl
@[simp] theorem State.leaveTick_buf (s : State) : (s.leaveTick).buf = s.buf := rfl
@[simp] theorem State.leaveTick_maxch (s : State) : (s.leaveTick).maxch = s.maxch := rfl
@[simp] theorem State.leaveTick_mode (s : State) : (s.leaveTick).mode = s.mode := rfl
@[simp] theorem State.leaveTick_cursor (s : State) : (s.leaveTick).cursor = s.cursor := rfl
@[simp] theorem State.leaveTick_tie (s : State) : (s.leaveTick).tie = decide (s.mode ≠ .disabled) := rfl
@[simp] theorem State.leaveTick_pinsel (s : State) : (s.leaveTick).pinsel = s.pinsel := rfl
@[simp] theorem State.leaveTick_pindesc (s : State) : (s.leaveTick).pindesc = s.pindesc := rfl
@[simp] theorem State.leaveTick_pindir (s : State) : (s.leaveTick).pindir = s.pindir := rfl
@[simp] theorem State.leaveTick_line (s : State) : (s.leaveTick).line = s.line := rfl
@[simp] theorem State.leaveTick_busy (s : State) : (s.leaveTick).busy = false := rfl
@[simp] theorem State.leaveTick_rem (s : State) : (s.leaveTick).rem = s.rem := rfl
@[simp] theorem State.leaveTick_tickPend (s : State) : (s.leaveTick).tickPend = s.tickPend := rfl
@[simp] theorem State.leaveTick_faults (s : State) : (s.leaveTick).faults = s.faults := rfl
@[simp] theorem State.leaveTick_phase (s : State) : (s.leaveTick).phase = .select := rfl
@[simp] theorem State.leaveTick_lead (s : State) : (s.leaveTick).lead = s.lead := rfl
@[simp] theorem State.leaveTick_now (s : State) : (s.leaveTick).now = s.now := rfl
@[simp] theorem State.leaveTick_tickPhase (s : State) : (s.leaveTick).tickPhase = s.tickPhase := rfl
@[simp] theorem State.leaveTick_toMark (s : State) : (s.leaveTick).toMark = s.toMark := rfl
@[simp] theorem State.leaveTick_portOut (s : State) : (s.leaveTick).portOut = s.portOut := rfl
@[simp] theorem State.leaveTick_portDir (s : State) : (s.leaveTick).portDir = s.portDir := rfl
@[simp] theorem State.leaveTick_gie (s : State) : (s.leaveTick).gie = s.gie := rfl
@[simp] theorem State.leaveTick_wire (s : State) : (s.leaveTick).wire = s.wire := rfl
@[simp] theorem State.leaveTick_responses (s : State) : (s.leaveTick).responses = s.responses := rfl
@[simp] theorem State.leaveTick_draws (s : State) : (s.leaveTick).draws = s.draws := rfl
@[simp] theorem State.leaveTick_agenda (s : State) : (s.leaveTick).agenda = s.agenda := rfl

@[simp] theorem State.endTransmission_cfg (s : State) : (s.endTransmission).cfg = s.cfg := rfl
@[simp] theorem State.endTransmission_buf (s : State) : (s.endTransmission).buf = s.buf := rfl
@[simp] theorem State.endTransmission_maxch (s : State) : (s.endTransmission).maxch = s.maxch := rfl
@[simp] theorem State.endTransmission_mode (s : State) : (s.endTransmission).mode = .disabled := rfl
@[simp] theorem State.endTransmission_cursor (s : State) : (s.endTransmission).cursor = s.cursor := rfl
@[simp] theorem State.endTransmission_tie (s : State) : (s.endTransmission).tie = false := rfl
@[simp] theorem State.endTransmission_pinsel (s : State) : (s.endTransmission).pinsel = s.pinsel := rfl
@[simp] theorem State.endTransmission_pindesc (s : State) : (s.endTransmission).pindesc = s.pindesc := rfl
@[simp] theorem State.endTransmission_pindir (s : State) : (s.endTransmission).pindir = s.pindir := rfl
@[simp] theorem State.endTransmission_line (s : State) : (s.endTransmission).line = s.line := rfl
@[simp] theorem State.endTransmission_busy (s : State) : (s.endTransmission).busy = false := rfl
@[simp] theorem State.endTransmission_rem (s : State) : (s.endTransmission).rem = s.rem := rfl
@[simp] theorem State.endTransmission_tickPend (s : State) : (s.endTransmission).tickPend = s.tickPend := rfl
@[simp] theorem State.endTransmission_faults (s : State) : (s.endTransmission).faults = s.faults := rfl
@[simp] theorem State.endTransmission_phase (s : State) : (s.endTransmission).phase = .select := rfl
@[simp] theorem State.endTransmission_lead (s : State) : (s.endTransmission).lead = s.lead := rfl
@[simp] theorem State.endTransmission_now (s : State) : (s.endTransmission).now = s.now := rfl
@[simp] theorem State.endTransmission_tickPhase (s : State) : (s.endTransmission).tickPhase = s.tickPhase := rfl
@[simp] theorem State.endTransmission_toMark (s : State) : (s.endTransmission).toMark = s.toMark := rfl
@[simp] theorem State.endTransmission_portOut (s : State) : (s.endTransmission).portOut = s.portOut := rfl
@[simp] theorem State.endTransmission_portDir (s : State) : (s.endTransmission).portDir = s.portDir := rfl
@[simp] theorem State.endTransmission_gie (s : State) : (s.endTransmission).gie = s.gie := rfl
@[simp] theorem State.endTransmission_wire (s : State) : (s.endTransmission).wire = s.wire := rfl
@[simp] theorem State.endTransmission_responses (s : State) : (s.endTransmission).responses = s.responses := rfl
@[simp] theorem State.endTransmission_draws (s : State) : (s.endTransmission).draws = s.draws := rfl
@[simp] theorem State.endTransmission_agenda (s : State) : (s.endTransmission).agenda = s.agenda := rfl

@[simp] theorem State.setLine_cfg (s : State) (l : Level) : (s.setLine l).cfg = s.cfg := rfl
@[simp] theorem State.setLine_buf (s : State) (l : Level) : (s.setLine l).buf = s.buf := rfl
@[simp] theorem State.setLine_maxch (s : State) (l : Level) : (s.setLine l).maxch = s.maxch := rfl
@[simp] theorem State.setLine_mode (s : State) (l : Level) : (s.setLine l).mode = s.mode := rfl
@[simp] theorem State.setLine_cursor (s : State) (l : Level) : (s.setLine l).cursor = s.cursor := rfl
@[simp] theorem State.setLine_tie (s : State) (l : Level) : (s.setLine l).tie = s.tie := rfl
@[simp] theorem State.setLine_pinsel (s : State) (l : Level) : (s.setLine l).pinsel = s.pinsel := rfl
@[simp] theorem State.setLine_pindesc (s : State) (l : Level) : (s.setLine l).pindesc = s.pindesc := rfl
@[simp] theorem State.setLine_pindir (s : State) (l : Level) : (s.setLine l).pindir = s.pindir := rfl
@[simp] theorem State.setLine_line (s : State) (l : Level) : (s.setLine l).line = l := rfl
@[simp] theorem State.setLine_busy (s : State) (l : Level) : (s.setLine l).busy = s.busy := rfl
@[simp] theorem State.setLine_rem (s : State) (l : Level) : (s.setLine l).rem = s.rem := rfl
@[simp] theorem State.setLine_tickPend (s : State) (l : Level) : (s.setLine l).tickPend = s.tickPend := rfl
@[simp] theorem State.setLine_faults (s : State) (l : Level) : (s.setLine l).faults = s.faults := rfl
@[simp] theorem State.setLine_phase (s : State) (l : Level) : (s.setLine l).phase = s.phase := rfl
@[simp] theorem State.setLine_lead (s : State) (l : Level) : (s.setLine l).lead = s.lead := rfl
@[simp] theorem State.setLine_now (s : State) (l : Level) : (s.setLine l).now = s.now := rfl
@[simp] theorem State.setLine_tickPhase (s : State) (l : Level) : (s.setLine l).tickPhase = s.tickPhase := rfl
@[simp] theorem State.setLine_toMark (s : State) (l : Level) : (s.setLine l).toMark = s.toMark := rfl
@[simp] theorem State.setLine_portDir (s : State) (l : Level) : (s.setLine l).portDir = s.portDir := rfl
@[simp] theorem State.setLine_gie (s : State) (l : Level) : (s.setLine l).gie = s.gie := rfl
@[simp] theorem State.setLine_wire (s : State) (l : Level) : (s.setLine l).wire = s.wire := rfl
@[simp] theorem State.setLine_responses (s : State) (l : Level) : (s.setLine l).responses = s.responses := rfl
@[simp] theorem State.setLine_draws (s : State) (l : Level) : (s.setLine l).draws = s.draws := rfl
@[simp] theorem State.setLine_agenda (s : State) (l : Level) : (s.setLine l).agenda = s.agenda := rfl

@[simp] theorem State.elapse_cfg (s : State) (n : Nat) : (s.elapse n).cfg = s.cfg := rfl
@[simp] theorem State.elapse_buf (s : State) (n : Nat) : (s.elapse n).buf = s.buf := rfl
@[simp] theorem State.elapse_maxch (s : State) (n : Nat) : (s.elapse n).maxch = s.maxch := rfl
@[simp] theorem State.elapse_mode (s : State) (n : Nat) : (s.elapse n).mode = s.mode := rfl
@[simp] theorem State.elapse_cursor (s : State) (n : Nat) : (s.elapse n).cursor = s.cursor := rfl
@[simp] theorem State.elapse_tie (s : State) (n : Nat) : (s.elapse n).tie = s.tie := rfl
@[simp] theorem State.elapse_pinsel (s : State) (n : Nat) : (s.elapse n).pinsel = s.pinsel := rfl
@[simp] theorem State.elapse_pindesc (s : State) (n : Nat) : (s.elapse n).pindesc = s.pindesc := rfl
@[simp] theorem State.elapse_pindir (s : State) (n : Nat) : (s.elapse n).pindir = s.pindir := rfl
@[simp] theorem State.elapse_line (s : State) (n : Nat) : (s.elapse n).line = s.line := rfl
@[simp] theorem State.elapse_busy (s : State) (n : Nat) : (s.elapse n).busy = s.busy := rfl
@[simp] theorem State.elapse_rem (s : State) (n : Nat) : (s.elapse n).rem = s.rem := rfl
@[simp] theorem State.elapse_tickPend (s : State) (n : Nat) : (s.elapse n).tickPend = pendAfter s.toMark n s.tickPend := rfl
@[simp] theorem State.elapse_faults (s : State) (n : Nat) : (s.elapse n).faults = s.faults := rfl
@[simp] theorem State.elapse_phase (s : State) (n : Nat) : (s.elapse n).phase = s.phase := rfl
@[simp] theorem State.elapse_lead (s : State) (n : Nat) : (s.elapse n).lead = s.lead := rfl
@[simp] theorem State.elapse_now (s : State) (n : Nat) : (s.elapse n).now = s.now + n := rfl
@[simp] theorem State.elapse_tickPhase (s : State) (n : Nat) : (s.elapse n).tickPhase = s.tickPhase := rfl
@[simp] theorem State.elapse_toMark (s : State) (n : Nat) : (s.elapse n).toMark = toMarkAfter s.cfg.tickCycles s.toMark n := rfl
@[simp] theorem State.elapse_portOut (s : State) (n : Nat) : (s.elapse n).portOut = s.portOut := rfl
@[simp] theorem State.elapse_portDir (s : State) (n : Nat) : (s.elapse n).portDir = s.portDir := rfl
@[simp] theorem State.elapse_gie (s : State) (n : Nat) : (s.elapse n).gie = s.gie := rfl
@[simp] theorem State.elapse_wire (s : State) (n : Nat) : (s.elapse n).wire = if n = 0 then s.wire else s.wire ++ [⟨s.line, n⟩] := rfl
@[simp] theorem State.elapse_responses (s : State) (n : Nat) : (s.elapse n).responses = s.responses := rfl
@[simp] theorem State.elapse_draws (s : State) (n : Nat) : (s.elapse n).draws = s.draws := rfl
@[simp] theorem State.elapse_agenda (s : State) (n : Nat) : (s.elapse n).agenda = s.agenda := rfl

@[simp] theorem State.takeMark_cfg (s : State) : (s.takeMark).cfg = s.cfg := rfl
@[simp] theorem State.takeMark_buf (s : State) : (s.takeMark).buf = s.buf := rfl
@[simp] theorem State.takeMark_maxch (s : State) : (s.takeMark).maxch = s.maxch := rfl
@[simp] theorem State.takeMark_mode (s : State) : (s.takeMark).mode = s.mode := rfl
@[simp] theorem State.takeMark_cursor (s : State) : (s.takeMark).cursor = s.cursor := rfl
@[simp] theorem State.takeMark_tie (s : State) : (s.takeMark).tie = s.tie := rfl
@[simp] theorem State.takeMark_pinsel (s : State) : (s.takeMark).pinsel = s.pinsel := rfl
@[simp] theorem State.takeMark_pindesc (s : State) : (s.takeMark).pindesc = s.pindesc := rfl
@[simp] theorem State.takeMark_pindir (s : State) : (s.takeMark).pindir = s.pindir := rfl
@[simp] theorem State.takeMark_line (s : State) : (s.takeMark).line = s.line := rfl
@[simp] theorem State.takeMark_busy (s : State) : (s.takeMark).busy = s.busy := rfl
@[simp] theorem State.takeMark_rem (s : State) : (s.takeMark).rem = s.rem := rfl
@[simp] theorem State.takeMark_tickPend (s : State) : (s.takeMark).tickPend = true := rfl
@[simp] theorem State.takeMark_faults (s : State) : (s.takeMark).faults = s.faults := rfl
@[simp] theorem State.takeMark_phase (s : State) : (s.takeMark).phase = s.phase := rfl
@[simp] theorem State.takeMark_lead (s : State) : (s.takeMark).lead = s.lead := rfl
@[simp] theorem State.takeMark_now (s : State) : (s.takeMark).now = s.now := rfl
@[simp] theorem State.takeMark_tickPhase (s : State) : (s.takeMark).tickPhase = s.tickPhase := rfl
@[simp] theorem State.takeMark_toMark (s : State) : (s.takeMark).toMark = s.cfg.tickCycles := rfl
@[simp] theorem State.takeMark_portOut (s : State) : (s.takeMark).portOut = s.portOut := rfl
@[simp] theorem State.takeMark_portDir (s : State) : (s.takeMark).portDir = s.portDir := rfl
@[simp] theorem State.takeMark_gie (s : State) : (s.takeMark).gie = s.gie := rfl
@[simp] theorem State.takeMark_wire (s : State) : (s.takeMark).wire = s.wire := rfl
@[simp] theorem State.takeMark_responses (s : State) : (s.takeMark).responses = s.responses := rfl
@[simp] theorem State.takeMark_draws (s : State) : (s.takeMark).draws = s.draws := rfl
@[simp] theorem State.takeMark_agenda (s : State) : (s.takeMark).agenda = s.agenda := rfl

theorem State.setLine_portOut_none {s : State} (l : Level) (h : s.pindesc = none) : (s.setLine l).portOut = s.portOut := by
  simp [State.setLine, h]

theorem State.setLine_portOut_some {s : State} {d : PinDesc} (l : Level) (h : s.pindesc = some d) :
    (s.setLine l).portOut = storeSet 0 s.portOut d.port (driveBits (s.portBits d.port) d.mask l) := by
  simp [State.setLine, h]

end Sys2Proof.Machine
end

