-- ==== Sys2Proof/Laws/Ops.lean ====
section
/-! SUPPORT. One lemma for what each shared operation does: the tick source over time, driving the line, emissions, the beginning of a
transmission, the engine's choice. -/

namespace Sys2Proof.Machine

/-! ## The tick source over time -/

theorem toMarkAfter_zero (period toMark : Nat) : toMarkAfter period toMark 0 = toMark := by simp [toMarkAfter]

theorem toMarkAfter_add {period : Nat} (hp : 1 ≤ period) (toMark a b : Nat) :
    toMarkAfter period (toMarkAfter period toMark a) b = toMarkAfter period toMark (a + b) := by
  unfold toMarkAfter
  by_cases h1 : a ≤ toMark
  · simp only [if_pos h1]
    split_ifs <;> first | omega | (congr 2; omega)
  · have hlt : (a - toMark - 1) % period < period := Nat.mod_lt _ hp
    have hsum : a + b - toMark - 1 = (a - toMark - 1) + b := by omega
    simp only [if_neg h1, if_neg (show ¬ a + b ≤ toMark by omega), hsum]
    generalize a - toMark - 1 = x at *
    split_ifs with h2
    · rw [Nat.add_mod x b, Nat.mod_eq_of_lt (show b < period by omega)]
      rw [Nat.mod_eq_of_lt (show x % period + b < period by omega)]
      omega
    · have h : x + b = (b - (period - 1 - x % period) - 1) + period * (x / period + 1) := by
        have := Nat.div_add_mod x period
        rw [Nat.mul_add]; omega
      rw [h, Nat.add_mul_mod_self_left]

theorem toMarkAfter_le {period toMark n : Nat} (h : toMark ≤ period) : toMarkAfter period toMark n ≤ period := by
  unfold toMarkAfter; split <;> omega

/-- Time passes, and the next mark moves on by whole periods. -/
theorem toMarkAfter_grid {period toMark n : Nat} (hp : 1 ≤ period) :
    ∃ k, n + toMarkAfter period toMark n = toMark + k * period := by
  unfold toMarkAfter
  split
  · exact ⟨0, by omega⟩
  · refine ⟨(n - toMark - 1) / period + 1, ?_⟩
    have := Nat.div_add_mod (n - toMark - 1) period
    have hlt : (n - toMark - 1) % period < period := Nat.mod_lt _ hp
    rw [Nat.add_mul, Nat.mul_comm]; omega

theorem pendAfter_zero (toMark : Nat) (pend : Bool) : pendAfter toMark 0 pend = pend := by simp [pendAfter]

theorem pendAfter_add (period toMark a b : Nat) (pend : Bool) :
    pendAfter (toMarkAfter period toMark a) b (pendAfter toMark a pend) = pendAfter toMark (a + b) pend := by
  unfold pendAfter toMarkAfter
  by_cases h1 : a ≤ toMark
  · rw [if_pos h1, decide_eq_false (show ¬ toMark < a by omega), Bool.or_false]
    congr 1
    exact decide_eq_decide.2 (by omega)
  · simp [if_neg h1, show toMark < a by omega, show toMark < a + b by omega]

theorem State.elapse_zero (s : State) : s.elapse 0 = s := by
  simp [State.elapse, toMarkAfter_zero, pendAfter_zero]

/-! ## Driving the line -/

theorem driveBits_high_and {bits mask : Nat} (h : mask ≠ 0) : driveBits bits mask .high &&& mask ≠ 0 := by
  have : driveBits bits mask .high &&& mask = mask := by
    apply Nat.eq_of_testBit_eq; intro i
    simp only [driveBits, Nat.testBit_and, Nat.testBit_or]
    cases bits.testBit i <;> cases mask.testBit i <;> rfl
  rwa [this]

theorem driveBits_low_and (bits mask : Nat) : driveBits bits mask .low &&& mask = 0 := by
  apply Nat.eq_of_testBit_eq; intro i
  simp only [driveBits, Nat.testBit_and, Nat.testBit_xor, Nat.zero_testBit]
  cases bits.testBit i <;> cases mask.testBit i <;> rfl

/-- Driving touches the mask's bits only (20 R83). -/
theorem driveBits_other {bits mask i : Nat} (l : Level) (h : mask.testBit i = false) :
    (driveBits bits mask l).testBit i = bits.testBit i := by
  cases l <;> simp [driveBits, h]

theorem mask_ne_zero_of_oneLine {s : State} {d : PinDesc} (h : s.oneLine d = true) : d.mask ≠ 0 := by
  intro h0
  simp [State.oneLine, popcount, h0, List.countP_eq_zero.2] at h

/-- An entry of the pin map is what `pinMap` answers for a pin that SETPIN accepts. -/
theorem State.pinValid_iff {s : State} {p : PinId} : s.pinValid p = true ↔ ∃ d, s.pinMap p = some d ∧ s.oneLine d = true := by
  unfold State.pinValid
  cases s.pinMap p <;> simp

/-! ## Emissions -/

/-- What an emission leaves alone: everything but LINE, the output registers, the time, the tick source and the wire trace. -/
structure EmissionFrame (s t : State) : Prop where
  cfg       : t.cfg = s.cfg
  buf       : t.buf = s.buf
  maxch     : t.maxch = s.maxch
  mode      : t.mode = s.mode
  cursor    : t.cursor = s.cursor
  tie       : t.tie = s.tie
  pinsel    : t.pinsel = s.pinsel
  pindesc   : t.pindesc = s.pindesc
  pindir    : t.pindir = s.pindir
  busy      : t.busy = s.busy
  rem       : t.rem = s.rem
  faults    : t.faults = s.faults
  phase     : t.phase = s.phase
  lead      : t.lead = s.lead
  tickPhase : t.tickPhase = s.tickPhase
  portDir   : t.portDir = s.portDir
  gie       : t.gie = s.gie
  responses : t.responses = s.responses
  draws     : t.draws = s.draws
  agenda    : t.agenda = s.agenda

theorem EmissionFrame.refl (s : State) : EmissionFrame s s := by constructor <;> rfl

theorem EmissionFrame.trans {s t u : State} (h : EmissionFrame s t) (k : EmissionFrame t u) : EmissionFrame s u := by
  constructor
  exacts [k.cfg.trans h.cfg, k.buf.trans h.buf, k.maxch.trans h.maxch, k.mode.trans h.mode, k.cursor.trans h.cursor,
    k.tie.trans h.tie, k.pinsel.trans h.pinsel, k.pindesc.trans h.pindesc, k.pindir.trans h.pindir, k.busy.trans h.busy,
    k.rem.trans h.rem, k.faults.trans h.faults, k.phase.trans h.phase, k.lead.trans h.lead, k.tickPhase.trans h.tickPhase,
    k.portDir.trans h.portDir, k.gie.trans h.gie, k.responses.trans h.responses, k.draws.trans h.draws, k.agenda.trans h.agenda]

/-- One slot for each level of a list, in order: every emission is such a list. -/
def State.emitLevels (s : State) (ls : List Level) : State := ls.foldl State.emitSlot s

theorem State.emitLevels_nil (s : State) : s.emitLevels [] = s := rfl

theorem State.emitLevels_cons (s : State) (l : Level) (ls : List Level) : s.emitLevels (l :: ls) = (s.emitSlot l).emitLevels ls := rfl

theorem State.emitLevels_append (s : State) (ls ms : List Level) : s.emitLevels (ls ++ ms) = (s.emitLevels ls).emitLevels ms := by
  simp [State.emitLevels, List.foldl_append]

theorem State.emit_eq_emitLevels (s : State) (l : Level) (n : Nat) : s.emit l n = s.emitLevels (List.replicate n l) := by
  induction n generalizing s with
  | zero => rfl
  | succ n ih => exact ih (s.emitSlot l)

/-- TXBYTE is the 11 slots of `frame`, inside its critical region. -/
theorem State.transmit_eq_emitLevels (s : State) (v : Byte) : s.transmit v = s.critical (State.emitLevels · (frame v)) := rfl

theorem State.emitSlot_frame (s : State) (l : Level) : EmissionFrame s (s.emitSlot l) := by constructor <;> rfl

theorem State.emitLevels_frame (s : State) (ls : List Level) : EmissionFrame s (s.emitLevels ls) := by
  induction ls generalizing s with
  | nil => exact .refl s
  | cons l ls ih => exact (s.emitSlot_frame l).trans (ih _)

theorem State.emitLevels_now (s : State) (ls : List Level) : (s.emitLevels ls).now = s.now + ls.length * s.cfg.cpb := by
  induction ls generalizing s with
  | nil => simp [State.emitLevels_nil]
  | cons l ls ih => rw [State.emitLevels_cons, ih]; simp [State.emitSlot]; ring

theorem State.emitLevels_wire {s : State} (h : 1 ≤ s.cfg.cpb) (ls : List Level) :
    (s.emitLevels ls).wire = s.wire ++ slots s.cfg ls := by
  induction ls generalizing s with
  | nil => simp [State.emitLevels_nil, slots]
  | cons l ls ih => rw [State.emitLevels_cons, ih (by exact h)]; simp [State.emitSlot, slots, Nat.ne_of_gt h]

theorem State.emitLevels_line (s : State) (ls : List Level) : (s.emitLevels ls).line = ls.getLastD s.line := by
  induction ls generalizing s with
  | nil => rfl
  | cons l ls ih => rw [State.emitLevels_cons, ih]; cases ls <;> rfl

theorem State.emitLevels_toMark {s : State} (h : 1 ≤ s.cfg.tickCycles) (ls : List Level) :
    (s.emitLevels ls).toMark = toMarkAfter s.cfg.tickCycles s.toMark (ls.length * s.cfg.cpb) := by
  induction ls generalizing s with
  | nil => simp [State.emitLevels_nil, toMarkAfter_zero]
  | cons l ls ih =>
    rw [State.emitLevels_cons, ih (by exact h)]
    simp only [State.emitSlot, State.elapse_toMark, State.elapse_cfg, State.setLine_cfg, State.setLine_toMark, toMarkAfter_add h]
    congr 1; simp; ring

theorem State.emitLevels_tickPend (s : State) (ls : List Level) :
    (s.emitLevels ls).tickPend = pendAfter s.toMark (ls.length * s.cfg.cpb) s.tickPend := by
  induction ls generalizing s with
  | nil => simp [State.emitLevels_nil, pendAfter_zero]
  | cons l ls ih =>
    rw [State.emitLevels_cons, ih]
    simp only [State.emitSlot, State.elapse_toMark, State.elapse_tickPend, State.elapse_cfg, State.setLine_cfg, State.setLine_toMark,
      State.setLine_tickPend, pendAfter_add]
    congr 1; simp; ring

theorem State.setLine_portOut_wf {s : State} (l : Level) (h : storeWf 0 s.portOut = true) : storeWf 0 (s.setLine l).portOut = true := by
  cases hd : s.pindesc with
  | none => rwa [State.setLine_portOut_none l hd]
  | some d => rw [State.setLine_portOut_some l hd]; exact storeSet_wf _ _ h

/-- Driving the line leaves every GPIO bit alone but those of PINDESC's mask (20 R83). -/
theorem State.setLine_other_bit {s : State} {port i : Nat} (l : Level) (hwf : storeWf 0 s.portOut = true)
    (h : ∀ d, s.pindesc = some d → d.port = port → d.mask.testBit i = false) :
    ((s.setLine l).portBits port).testBit i = (s.portBits port).testBit i := by
  cases hd : s.pindesc with
  | none => simp [State.portBits, State.setLine_portOut_none l hd]
  | some d =>
    unfold State.portBits
    rw [State.setLine_portOut_some l hd]
    by_cases hp : d.port = port
    · subst hp
      rw [storeGet_storeSet_same _ _ hwf, driveBits_other l (h d hd rfl)]
      rfl
    · rw [storeGet_storeSet_other _ (Ne.symm hp)]

/-- Once driven, the line PINDESC names is at the level of LINE, if it is an output. -/
theorem State.setLine_pinLevel {s : State} {d : PinDesc} {l : Level} (hwf : storeWf 0 s.portOut = true) (hd : s.pindesc = some d)
    (hmask : d.mask ≠ 0) (hdir : s.dirBits d.port &&& d.mask ≠ 0) (hl : l ≠ .z) : (s.setLine l).pinLevel d = l := by
  have hdir' : (s.setLine l).dirBits d.port &&& d.mask ≠ 0 := hdir
  have hout : (s.setLine l).portBits d.port = driveBits (s.portBits d.port) d.mask l := by
    unfold State.portBits
    rw [State.setLine_portOut_some l hd, storeGet_storeSet_same _ _ hwf]
    rfl
  unfold State.pinLevel
  rw [if_neg hdir', hout]
  cases l with
  | z => exact absurd rfl hl
  | low => rw [if_pos (driveBits_low_and _ _)]
  | high => rw [if_neg (driveBits_high_and hmask)]

theorem State.emitLevels_portOut_wf {s : State} (ls : List Level) (h : storeWf 0 s.portOut = true) :
    storeWf 0 (s.emitLevels ls).portOut = true := by
  induction ls generalizing s with
  | nil => exact h
  | cons l ls ih => exact ih (State.setLine_portOut_wf l h)

/-- An emission leaves every GPIO bit alone but those of PINDESC's mask (20 R83). -/
theorem State.emitLevels_other_bit {s : State} (ls : List Level) {port i : Nat} (hwf : storeWf 0 s.portOut = true)
    (h : ∀ d, s.pindesc = some d → d.port = port → d.mask.testBit i = false) :
    ((s.emitLevels ls).portBits port).testBit i = (s.portBits port).testBit i := by
  induction ls generalizing s with
  | nil => rfl
  | cons l ls ih =>
    rw [State.emitLevels_cons, ih (s := s.emitSlot l) (State.setLine_portOut_wf l hwf) h]
    exact State.setLine_other_bit l hwf h

/-- After an emission the line PINDESC names is at the level of LINE. -/
theorem State.emitLevels_pinLevel {s : State} {d : PinDesc} (ls : List Level) (hwf : storeWf 0 s.portOut = true)
    (hd : s.pindesc = some d) (hmask : d.mask ≠ 0) (hdir : s.dirBits d.port &&& d.mask ≠ 0) (hz : Level.z ∉ ls)
    (h : s.line = s.pinLevel d) : (s.emitLevels ls).line = (s.emitLevels ls).pinLevel d := by
  induction ls generalizing s with
  | nil => exact h
  | cons l ls ih =>
    simp only [List.mem_cons, not_or] at hz
    refine ih (s := s.emitSlot l) (State.setLine_portOut_wf l hwf) hd hdir hz.2 ?_
    exact (State.setLine_pinLevel hwf hd hmask hdir (Ne.symm hz.1)).symm

theorem State.critical_frame {s : State} {body : State → State} (h : ∀ t, EmissionFrame t (body t)) : EmissionFrame s (s.critical body) := by
  have k := h { s with gie := false }
  constructor
  exacts [k.cfg, k.buf, k.maxch, k.mode, k.cursor, k.tie, k.pinsel, k.pindesc, k.pindir, k.busy, k.rem, k.faults, k.phase, k.lead,
    k.tickPhase, k.portDir, rfl, k.responses, k.draws, k.agenda]

theorem State.transmit_frame (s : State) (v : Byte) : EmissionFrame s (s.transmit v) := by
  rw [State.transmit_eq_emitLevels]
  exact State.critical_frame fun t => t.emitLevels_frame _

/-- An emission does not read the phase, so setting the phase before or after it is one. -/
theorem State.critical_emit_phase (s : State) (ls : List Level) (p : Phase) :
    ({ s with phase := p } : State).critical (State.emitLevels · ls) = { s.critical (State.emitLevels · ls) with phase := p } := by
  have h : ∀ (t : State) (ls : List Level), ({ t with phase := p } : State).emitLevels ls = { t.emitLevels ls with phase := p } := by
    intro t ls
    induction ls generalizing t with
    | nil => rfl
    | cons l ls ih => exact ih (t.emitSlot l)
  exact congrArg (fun t : State => { t with gie := s.gie }) (h { s with gie := false } ls)

/-- A critical region inside another changes nothing: interrupts are masked already. -/
theorem State.critical_of_masked {s : State} {body : State → State} (hg : s.gie = false) (h : ∀ t, EmissionFrame t (body t)) :
    s.critical body = body s := by
  have h0 : ({ s with gie := false } : State) = s := by rw [← hg]
  have h1 : ({ body s with gie := (body s).gie } : State) = body s := rfl
  unfold State.critical
  rw [h0, ← (h s).gie, h1]

theorem State.emitLevels_step (s : State) : (s.emitBreak.emitMab).emitLevels (frame startCode) = s.emitLevels stepALevels := by
  simp only [State.emitBreak, State.emitMab, State.emit_eq_emitLevels, stepALevels, State.emitLevels_append]

/-- The emission of STEP_A is the 35 slots of `stepALevels`, inside its critical region. -/
theorem State.stepA_emission (s : State) :
    s.critical (fun t => (t.emitBreak.emitMab).transmit startCode) = s.critical (State.emitLevels · stepALevels) := by
  have hg : (({ s with gie := false } : State).emitBreak.emitMab).gie = false := by
    simp only [State.emitBreak, State.emitMab, State.emit_eq_emitLevels, (State.emitLevels_frame _ _).gie]
  have h := State.critical_of_masked hg (body := (State.emitLevels · (frame startCode))) fun t => t.emitLevels_frame _
  unfold State.critical at h ⊢
  simp only [State.transmit_eq_emitLevels]
  rw [State.critical, h, State.emitLevels_step]

/-- What an emission in its critical region does to each field it touches. -/
theorem State.critical_emit_now (s : State) (ls : List Level) :
    (s.critical (State.emitLevels · ls)).now = s.now + ls.length * s.cfg.cpb :=
  State.emitLevels_now { s with gie := false } ls

theorem State.critical_emit_wire {s : State} (h : 1 ≤ s.cfg.cpb) (ls : List Level) :
    (s.critical (State.emitLevels · ls)).wire = s.wire ++ slots s.cfg ls :=
  State.emitLevels_wire (s := { s with gie := false }) h ls

theorem State.critical_emit_line (s : State) (ls : List Level) :
    (s.critical (State.emitLevels · ls)).line = ls.getLastD s.line :=
  State.emitLevels_line { s with gie := false } ls

theorem State.critical_emit_toMark {s : State} (h : 1 ≤ s.cfg.tickCycles) (ls : List Level) :
    (s.critical (State.emitLevels · ls)).toMark = toMarkAfter s.cfg.tickCycles s.toMark (ls.length * s.cfg.cpb) :=
  State.emitLevels_toMark (s := { s with gie := false }) h ls

theorem State.critical_emit_tickPend (s : State) (ls : List Level) :
    (s.critical (State.emitLevels · ls)).tickPend = pendAfter s.toMark (ls.length * s.cfg.cpb) s.tickPend :=
  State.emitLevels_tickPend { s with gie := false } ls

theorem z_not_mem_frame (v : Byte) : Level.z ∉ frame v := by
  simp only [frame, levelOf, List.mem_append, List.mem_map, List.mem_cons, not_or, not_exists, not_and]
  refine ⟨⟨by decide, fun i _ => ?_⟩, by decide, by decide, by simp⟩
  split <;> decide

theorem frame_length (v : Byte) : (frame v).length = 11 := by simp [frame]

theorem z_not_mem_stepALevels : Level.z ∉ stepALevels := by decide

theorem stepALevels_length : stepALevels.length = 35 := by decide

/-! ## The engine's choice -/

theorem State.deliverable_iff {s : State} : s.deliverable = true ↔ s.tie = true ∧ s.busy = false ∧ s.tickPend = true := by
  simp [State.deliverable, and_assoc]

theorem State.engineOp_eq_some {s : State} {i : Instr} :
    s.engineOp = some i ↔
      (s.busy = true ∧ s.lead = 0 ∧ i = s.phase.operation) ∨ (s.busy = false ∧ s.tie = true ∧ s.tickPend = true ∧ i = .tick) := by
  unfold State.engineOp State.deliverable
  cases s.busy <;> cases s.tie <;> cases s.tickPend <;> by_cases h : s.lead = 0 <;> simp [h, eq_comm]

theorem State.engineOp_eq_none {s : State} :
    s.engineOp = none ↔ (s.busy = true ∧ 0 < s.lead) ∨ (s.busy = false ∧ s.deliverable = false) := by
  unfold State.engineOp
  cases s.busy <;> cases s.deliverable <;> by_cases h : s.lead = 0 <;> simp [h, Nat.pos_iff_ne_zero]

end Sys2Proof.Machine
end

