-- ==== Sys2Proof/Laws/Step.lean ====
section
/-! SUPPORT. What one transition can have been: the one inversion lemma of `step`, and what runs an operation. -/

namespace Sys2Proof.Machine

/-- The state an agenda entry is taken in: the entry is off the list. -/
def State.withAgenda (s : State) (rest : List Event) : State := { s with agenda := rest }

theorem step_of_empty {s : State} (h : s.agenda = []) : step s = autonomous s := by simp only [step, h]

theorem step_of_entry {s : State} {e : Event} {rest : List Event} (h : s.agenda = e :: rest) : step s = takeEntry e rest s := by
  simp only [step, h]

/-- If a transition answers `t`, it was one of these. -/
theorem step_cases {s t : State} (h : step s = .next t) :
    (∃ i, s.operationNext i ∧ (exec i s = .next t ∨ ∃ rest, s.agenda = .engine :: rest ∧ exec i (s.withAgenda rest) = .next t)) ∨
    (∃ w i rest, s.agenda = .command w :: rest ∧ decode w = .ok i ∧ s.defers i = false ∧ exec i (s.withAgenda rest) = .next t) ∨
    (∃ w r rest, s.agenda = .command w :: rest ∧ decode w = .error r ∧ t = (s.withAgenda rest).raiseFault .illegalCommand) ∨
    (s.engineOp = none ∧ s.engineTurn ∧ t = s.passToNext) ∨
    (∃ e rest, s.agenda = e :: rest ∧ ((e = .engine ∧ s.engineOp = none) ∨ (e = .mark ∧ s.toMark ≠ 0)) ∧ t = s.withAgenda rest) ∨
    (∃ rest, s.agenda = .mark :: rest ∧ s.toMark = 0 ∧ t = (s.withAgenda rest).takeMark) ∨
    (∃ n rest, s.agenda = .pass n :: rest ∧ t = (s.withAgenda rest).passTime n) ∨
    (∃ n rest, s.agenda = .reset n :: rest ∧ t = (s.withAgenda rest).resetNow n) := by
  have auto : s.engineTurn → autonomous s = .next t →
      (∃ i, s.operationNext i ∧ (exec i s = .next t ∨ ∃ rest, s.agenda = .engine :: rest ∧ exec i (s.withAgenda rest) = .next t)) ∨
      (s.engineOp = none ∧ s.engineTurn ∧ t = s.passToNext) := by
    intro ht h
    unfold autonomous at h
    split at h
    · next i hi => exact .inl ⟨i, ⟨hi, ht⟩, .inl h⟩
    · next hn => injection h with h; exact .inr ⟨hn, ht, h.symm⟩
  unfold step at h
  split at h
  · next ha =>
    rcases auto (.inl ha) h with h | h
    · exact .inl h
    · exact .inr (.inr (.inr (.inl h)))
  next e rest ha =>
    unfold takeEntry at h
    split at h
    · next w =>
      unfold takeCommand at h
      split at h
      · next r hr => injection h with h; exact .inr (.inr (.inl ⟨w, r, rest, ha, hr, h.symm⟩))
      · next i hi =>
        split at h
        · next hd =>
          rcases auto (.inr (.inr ⟨w, rest, i, ha, hi, hd⟩)) h with h | h
          · exact .inl h
          · exact .inr (.inr (.inr (.inl h)))
        · next hd => exact .inr (.inl ⟨w, i, rest, ha, hi, by simpa using hd, h⟩)
    · unfold takeEngineTurn at h
      split at h
      · next i hi => exact .inl ⟨i, ⟨hi, .inr (.inl ⟨rest, ha⟩)⟩, .inr ⟨rest, ha, h⟩⟩
      · next hn => injection h with h; exact .inr (.inr (.inr (.inr (.inl ⟨_, rest, ha, .inl ⟨rfl, hn⟩, h.symm⟩))))
    · injection h with h
      split at h
      · next hm => exact .inr (.inr (.inr (.inr (.inr (.inl ⟨rest, ha, hm, h.symm⟩)))))
      · next hm => exact .inr (.inr (.inr (.inr (.inl ⟨_, rest, ha, .inr ⟨rfl, hm⟩, h.symm⟩))))
    · next n => injection h with h; exact .inr (.inr (.inr (.inr (.inr (.inr (.inl ⟨n, rest, ha, h.symm⟩))))))
    · next n => injection h with h; exact .inr (.inr (.inr (.inr (.inr (.inr (.inr ⟨n, rest, ha, h.symm⟩))))))

/-! ## Runs -/

/-- A run takes its first transition and goes on from there. -/
theorem run_succ {s t : State} (k : Nat) (h : step s = .next t) :
    Host.Core.run Sys2Proof.core (k + 1) s = Host.Core.run Sys2Proof.core k t := by
  have h' : Host.Core.step Sys2Proof.core s = .next t := h
  simp only [Host.Core.run, h']

theorem run_zero (s : State) : Host.Core.run Sys2Proof.core 0 s = .next s := rfl

/-- A run of `k + n` transitions is a run of `k` and then one of `n`. -/
theorem run_add {s t : State} {k : Nat} (n : Nat) (h : Host.Core.run Sys2Proof.core k s = .next t) :
    Host.Core.run Sys2Proof.core (k + n) s = Host.Core.run Sys2Proof.core n t := by
  induction k generalizing s with
  | zero => cases h; rw [Nat.zero_add]
  | succ k ih =>
    cases hs : step s with
    | next u => rw [run_succ k hs] at h; rw [Nat.add_right_comm, run_succ _ hs]; exact ih h
    | fault r => have h' : Host.Core.step Sys2Proof.core s = .fault r := hs; simp only [Host.Core.run, h'] at h; cases h
    | refused r => have h' : Host.Core.step Sys2Proof.core s = .refused r := hs; simp only [Host.Core.run, h'] at h; cases h

end Sys2Proof.Machine
end

