-- ==== Sys2Proof/Laws/Exec.lean ====
section
/-! SUPPORT. What the engine's operations keep, whichever one is due, and the small facts about channels and faults that go with them. -/

namespace Sys2Proof.Machine

theorem State.hasChannel_iff {s : State} {c : Nat} : s.hasChannel c = true ↔ 1 ≤ c ∧ c ≤ s.cfg.capacity.size := by
  simp [State.hasChannel]

theorem State.channelExists_iff {s : State} {ch : Int} : s.channelExists ch = true ↔ 1 ≤ ch ∧ ch ≤ s.cfg.capacity.size := by
  simp [State.channelExists]

/-- A channel's byte depends on BUF and the capacity only. -/
theorem State.bufRead_congr {s t : State} (hbuf : t.buf = s.buf) (hcfg : t.cfg = s.cfg) (c : Nat) : t.bufRead c = s.bufRead c := by
  have h : t.hasChannel c = s.hasChannel c := by unfold State.hasChannel; rw [hcfg]
  simp only [State.bufRead, h, hbuf]

theorem FaultSet.has_insert {f : FaultSet} (code : FaultCode) {c : FaultCode} (h : f.has c = true) : (f.insert code).has c = true := by
  cases code <;> cases c <;> simp_all [FaultSet.has, FaultSet.insert]

theorem frame_getLastD (v : Byte) (l : Level) : (frame v).getLastD l = .high := by
  simp only [frame, List.getLastD_eq_getLast?, List.getLast?_append]; rfl

theorem stepALevels_getLastD (l : Level) : stepALevels.getLastD l = .high := by simp [stepALevels, frame]

/-- A word that decodes is a host command (30 R121). -/
theorem decode_isHost {w : Word} {i : Instr} (h : decode w = .ok i) : i.isHost = true := by
  unfold decode at h
  split at h <;> (try unfold ifZero at h) <;> (try split at h) <;> cases h <;> rfl

/-- A pending tick stays pending over an emission. -/
theorem State.critical_emit_keeps_pend {s : State} (h : s.tickPend = true) (ls : List Level) :
    (s.critical (State.emitLevels · ls)).tickPend = true := by
  rw [State.critical_emit_tickPend, h]; rfl

/-- STEP_A is its emission, with the budget charged before it and ADVANCE selected after it. -/
theorem execStepA_cases {s t : State} (h : execStepA s = .next t) :
    t = { ({ s with rem := s.rem - 35 } : State).critical (State.emitLevels · stepALevels) with phase := .advance } ∧
      EmissionFrame { s with rem := s.rem - 35, phase := .advance } t ∧ t.line = .high ∧ (s.tickPend = true → t.tickPend = true) := by
  unfold execStepA at h
  rw [State.stepA_emission] at h
  injection h with h; subst h
  have F := State.critical_frame (s := ({ s with rem := s.rem - 35 } : State)) fun t => t.emitLevels_frame stepALevels
  have hl := (State.critical_emit_line ({ s with rem := s.rem - 35 } : State) stepALevels).trans (stepALevels_getLastD _)
  have hp := fun h => State.critical_emit_keeps_pend (s := ({ s with rem := s.rem - 35 } : State)) h stepALevels
  refine ⟨rfl, ?_, hl, hp⟩
  constructor
  exacts [F.cfg, F.buf, F.maxch, F.mode, F.cursor, F.tie, F.pinsel, F.pindesc, F.pindir, F.busy, F.rem, F.faults, rfl, F.lead,
    F.tickPhase, F.portDir, F.gie, F.responses, F.draws, F.agenda]

/-- STEP_B is the emission of the channel's byte, with the budget charged before it and ADVANCE selected after it. -/
theorem execStepB_cases {s t : State} (h : execStepB s = .next t) :
    ∃ v, s.bufRead s.cursor.toNat = some v ∧
      t = { ({ s with rem := s.rem - 11 } : State).critical (State.emitLevels · (frame v)) with phase := .advance } ∧
      EmissionFrame { s with rem := s.rem - 11, phase := .advance } t ∧ t.line = .high ∧ (s.tickPend = true → t.tickPend = true) := by
  unfold execStepB at h
  split at h
  · cases h
  next v hv =>
    injection h with h; subst h
    have F := State.transmit_frame ({ s with rem := s.rem - 11 } : State) v
    have hl := (State.critical_emit_line ({ s with rem := s.rem - 11 } : State) (frame v)).trans (frame_getLastD _ _)
    have hp := fun h => State.critical_emit_keeps_pend (s := ({ s with rem := s.rem - 11 } : State)) h (frame v)
    refine ⟨v, hv, rfl, ?_, hl, hp⟩
    constructor
    exacts [F.cfg, F.buf, F.maxch, F.mode, F.cursor, F.tie, F.pinsel, F.pindesc, F.pindir, F.busy, F.rem, F.faults, rfl, F.lead,
      F.tickPhase, F.portDir, F.gie, F.responses, F.draws, F.agenda]

/-- What the engine's operation `i` leaves alone, and which operations move the fields that they do not all leave alone. -/
structure EngineFrame (i : Instr) (s t : State) : Prop where
  cfg       : t.cfg = s.cfg
  buf       : t.buf = s.buf
  maxch     : t.maxch = s.maxch
  pinsel    : t.pinsel = s.pinsel
  pindesc   : t.pindesc = s.pindesc
  pindir    : t.pindir = s.pindir
  faults    : t.faults = s.faults
  tickPhase : t.tickPhase = s.tickPhase
  portDir   : t.portDir = s.portDir
  gie       : t.gie = s.gie
  responses : t.responses = s.responses
  agenda    : t.agenda = s.agenda
  mode      : t.mode = s.mode ∨ i = .boundary
  cursor    : t.cursor = s.cursor ∨ i = .advance
  tie       : t.tie = s.tie ∨ i = .tick ∨ i = .ret ∨ i = .boundary
  busy      : t.busy = s.busy ∨ (i = .tick ∧ t = s.enterTick) ∨ i = .ret ∨ (i = .boundary ∧ s.mode ≠ .continuous)
  rem       : t.rem = s.rem ∨ i = .tick ∨ i = .stepA ∨ i = .stepB
  tickPend  : s.tickPend = true → t.tickPend = true ∨ i = .tick
  line      : t.line = s.line ∨ ((i = .stepA ∨ i = .stepB) ∧ t.line = .high)

/-- The engine's operation, whichever is due, keeps its frame. -/
theorem engine_frame {s t : State} {i : Instr} (hi : s.engineOp = some i) (he : exec i s = .next t) : EngineFrame i s t := by
  rcases State.engineOp_eq_some.1 hi with ⟨hb, -, rfl⟩ | ⟨hb, -, -, rfl⟩
  · cases hp : s.phase <;> rw [hp] at he <;> simp only [Phase.operation, exec] at he ⊢
    case stepA =>
      obtain ⟨-, F, hl, hk⟩ := execStepA_cases he
      exact ⟨F.cfg, F.buf, F.maxch, F.pinsel, F.pindesc, F.pindir, F.faults, F.tickPhase, F.portDir, F.gie, F.responses, F.agenda,
        .inl F.mode, .inl F.cursor, .inl F.tie, .inl F.busy, .inr (.inr (.inl rfl)), fun h => .inl (hk h), .inr ⟨.inl rfl, hl⟩⟩
    case stepB =>
      obtain ⟨v, -, -, F, hl, hk⟩ := execStepB_cases he
      exact ⟨F.cfg, F.buf, F.maxch, F.pinsel, F.pindesc, F.pindir, F.faults, F.tickPhase, F.portDir, F.gie, F.responses, F.agenda,
        .inl F.mode, .inl F.cursor, .inl F.tie, .inl F.busy, .inr (.inr (.inr rfl)), fun h => .inl (hk h), .inr ⟨.inr rfl, hl⟩⟩
    case select => simp only [execSelect] at he; injection he with he; subst he; constructor <;> simp_all
    case advance => simp only [execAdvance] at he; injection he with he; subst he; split <;> constructor <;> simp_all
    case boundary => simp only [execBoundary] at he; injection he with he; subst he; split <;> constructor <;> simp_all
    case ret => simp only [execRet] at he; injection he with he; subst he; constructor <;> simp_all [State.leaveTick]
  · simp only [exec, execTick] at he; injection he with he; subst he; constructor <;> simp_all [State.enterTick]

/-- What a host command leaves alone of the lifecycle and the buffer, and which commands write it. -/
structure HostFrame (i : Instr) (s t : State) : Prop where
  pinsel  : t.pinsel = s.pinsel ∨ ∃ pin, i = .setpin pin
  maxch   : t.maxch = s.maxch ∨ (∃ ch val, i = .write ch val) ∨ ∃ ch, i = .setmax ch
  mode    : t.mode = s.mode ∨ i = .start ∨ i = .startsingle ∨ i = .stop
  tie     : t.tie = s.tie ∨ i = .start ∨ i = .startsingle ∨ i = .stop
  line    : (t.cursor = s.cursor ∧ t.pindesc = s.pindesc ∧ t.pindir = s.pindir ∧ t.line = s.line ∧ t.portOut = s.portOut ∧
              t.portDir = s.portDir) ∨ i = .start ∨ i = .startsingle
  pindesc : (t.pindesc = s.pindesc ∧ t.pindir = s.pindir) ∨
              ∃ pin, s.pinsel = some pin ∧ t.pindesc = s.pinMap pin ∧ t.pindir = true ∧ t.cursor = 0
  faults  : ∀ c, s.faults.has c = true → t.faults.has c = true

/-- A host command keeps its frame. -/
theorem host_frame {s t : State} {i : Instr} (hi : i.isHost = true) (he : exec i s = .next t) : HostFrame i s t := by
  have same : ∀ {u : State} {j : Instr}, u.pinsel = s.pinsel → u.maxch = s.maxch → u.mode = s.mode → u.tie = s.tie →
      (u.cursor = s.cursor ∧ u.pindesc = s.pindesc ∧ u.pindir = s.pindir ∧ u.line = s.line ∧ u.portOut = s.portOut ∧
        u.portDir = s.portDir) → (∀ c, s.faults.has c = true → u.faults.has c = true) → HostFrame j s u :=
    fun a b c d e f => ⟨.inl a, .inl b, .inl c, .inl d, .inl e, .inl ⟨e.2.1, e.2.2.1⟩, f⟩
  have fault : ∀ (code : FaultCode) (j : Instr), HostFrame j s (s.raiseFault code) :=
    fun code j => same rfl rfl rfl rfl ⟨rfl, rfl, rfl, rfl, rfl, rfl⟩ fun _ h => FaultSet.has_insert code h
  have begins : ∀ (m : Mode) (pin : PinId) (j : Instr), s.pinsel = some pin → (j = .start ∨ j = .startsingle) →
      HostFrame j s (s.beginTransmission m pin) := by
    intro m pin j hp hj
    unfold State.beginTransmission
    simp only
    split
    all_goals
      refine ⟨.inl rfl, .inl rfl, .inr ?_, .inr ?_, .inr hj, .inr ⟨pin, hp, rfl, rfl, rfl⟩, fun _ h => h⟩ <;>
        rcases hj with h | h <;> simp [h]
  cases i <;> simp only [Instr.isHost] at hi <;> try exact absurd hi (by decide)
  case write ch val =>
    simp only [exec, execWrite] at he; injection he with he; subst he
    split
    · exact ⟨.inl rfl, .inr (.inl ⟨_, _, rfl⟩), .inl rfl, .inl rfl, .inl ⟨rfl, rfl, rfl, rfl, rfl, rfl⟩, .inl ⟨rfl, rfl⟩, fun _ h => h⟩
    · exact same rfl rfl rfl rfl ⟨rfl, rfl, rfl, rfl, rfl, rfl⟩ fun _ h => h
  case setmax ch =>
    cases he
    exact ⟨.inl rfl, .inr (.inr ⟨_, rfl⟩), .inl rfl, .inl rfl, .inl ⟨rfl, rfl, rfl, rfl, rfl, rfl⟩, .inl ⟨rfl, rfl⟩, fun _ h => h⟩
  case setpin pin =>
    simp only [exec, execSetpin] at he; injection he with he; subst he
    split
    · exact fault _ _
    · split
      · exact ⟨.inr ⟨_, rfl⟩, .inl rfl, .inl rfl, .inl rfl, .inl ⟨rfl, rfl, rfl, rfl, rfl, rfl⟩, .inl ⟨rfl, rfl⟩, fun _ h => h⟩
      · exact fault _ _
  case start =>
    simp only [exec, execStart] at he
    split at he <;> injection he with he <;> subst he
    · exact fault _ _
    · exact begins _ _ _ ‹_› (.inl rfl)
  case startsingle =>
    simp only [exec, execStartsingle] at he
    split at he <;> injection he with he <;> subst he
    · exact fault _ _
    · exact begins _ _ _ ‹_› (.inr rfl)
  case stop =>
    cases he
    exact ⟨.inl rfl, .inl rfl, .inr (.inr (.inr rfl)), .inr (.inr (.inr rfl)), .inl ⟨rfl, rfl, rfl, rfl, rfl, rfl⟩, .inl ⟨rfl, rfl⟩, fun _ h => h⟩
  case read ch =>
    simp only [exec, execRead] at he; injection he with he; subst he
    split
    · exact same rfl rfl rfl rfl ⟨rfl, rfl, rfl, rfl, rfl, rfl⟩ fun _ h => h
    · exact fault _ _
  case readmax => cases he; exact same rfl rfl rfl rfl ⟨rfl, rfl, rfl, rfl, rfl, rfl⟩ fun _ h => h
  case status => cases he; exact same rfl rfl rfl rfl ⟨rfl, rfl, rfl, rfl, rfl, rfl⟩ fun _ h => h

end Sys2Proof.Machine
end

