-- ==== Sys2Proof/Laws/PerInstr.lean ====
section
/-! SUPPORT. Statements for all instructions, one lemma for each constructor. -/

namespace Sys2Proof.Laws.Encodable

/-- An instruction has a command word exactly when it is a host command whose operands are in range (30 R121, R122). -/
def Statement (i : Instr) : Prop := (encode i).isSome = (i.isHost && i.wellFormed)

theorem write (ch val : Int) : Statement (.write ch val) := by
  cases h : (Instr.write ch val).wellFormed <;> simp [Statement, encode, Instr.isHost, h]

theorem setmax (ch : Int) : Statement (.setmax ch) := by
  cases h : (Instr.setmax ch).wellFormed <;> simp [Statement, encode, Instr.isHost, h]

theorem setpin (pin : PinId) : Statement (.setpin pin) := rfl

theorem start : Statement .start := rfl

theorem startsingle : Statement .startsingle := rfl

theorem stop : Statement .stop := rfl

theorem read (ch : Int) : Statement (.read ch) := by
  cases h : (Instr.read ch).wellFormed <;> simp [Statement, encode, Instr.isHost, h]

theorem readmax : Statement .readmax := rfl

theorem status : Statement .status := rfl

theorem tick : Statement .tick := rfl

theorem select : Statement .select := rfl

theorem stepA : Statement .stepA := rfl

theorem stepB : Statement .stepB := rfl

theorem advance : Statement .advance := rfl

theorem boundary : Statement .boundary := rfl

theorem ret : Statement .ret := rfl

theorem txbyte (v : Byte) : Statement (.txbyte v) := rfl

theorem brk : Statement .brk := rfl

theorem mab : Statement .mab := rfl

end Sys2Proof.Laws.Encodable
end

