-- ==== Sys2Proof/Tests/Slice0.lean ====
section
/-! SUPPORT. Tests of the model's own author, with expected results from the encodings of 30 R118 and the vectors of 95_test_vectors.md;
and a witness for the hypotheses of every obligation. -/

namespace Sys2Proof.Tests

open Sys2Proof Sys2Proof.Machine

/-! ## Helpers -/

/-- A field of the state an operation leads to. -/
def field {α : Type} (o : Host.Outcome State Fault Refusal) (f : State → α) : Option α :=
  match o with
  | .next t => some (f t)
  | .fault _ => none
  | .refused _ => none

/-- An idle block 100 cycles before its second mark, otherwise as after reset. -/
def idle : State := { State.resetWith Config.chosen 0 with tickPhase := 0, now := 25500, toMark := 100 }

/-- The same block after SETPIN 3, SETMAX 5 and a START that has driven line 3 of port 0 high. -/
def live : State :=
  { idle with
    maxch := 5, mode := .continuous, tie := true, pinsel := some 3, pindesc := some ⟨0, 0x08⟩, pindir := true, line := .high,
    portOut := [(0, 0x08)], portDir := [(0, 0x08)] }

/-- The same block inside a tick. -/
def inTick (cursor : BitVec 16) (rem : Nat) (phase : Phase) : State :=
  { live with busy := true, tie := false, cursor := cursor, rem := rem, phase := phase }

/-! ## Well-formedness: one ill-formed term for each check (30 R122) -/

theorem test_wellFormed_refuses_write_channel :
    (Instr.write 2048 0).wellFormed = false ∧ (Instr.write (-2049) 0).wellFormed = false ∧ encode (.write 2048 0) = none := by decide

theorem test_wellFormed_refuses_write_value :
    (Instr.write 1 32768).wellFormed = false ∧ (Instr.write 1 (-32769)).wellFormed = false := by decide

theorem test_wellFormed_refuses_setmax_channel : (Instr.setmax 2048).wellFormed = false ∧ (Instr.setmax (-2049)).wellFormed = false := by decide

theorem test_wellFormed_refuses_read_channel : (Instr.read 2048).wellFormed = false ∧ (Instr.read (-2049)).wellFormed = false := by decide

/-! ## Decoding: words written out from 30 R118 and from section 2 of 95_test_vectors.md -/

theorem test_decode_write :
    decode 0b00010000000001010000000010000000 = .ok (.write 5 128) ∧ decode 0x1003FFFB = .ok (.write 3 (-5)) ∧
    decode 0x18000001 = .ok (.write (-2048) 1) ∧ decode 0x17FF0001 = .ok (.write 2047 1) ∧
    decode 0x10017FFF = .ok (.write 1 32767) ∧ decode 0x1258000A = .ok (.write 600 10) := by decide

theorem test_decode_setmax :
    decode 0b00101111111111010000000000000000 = .ok (.setmax (-3)) ∧ decode 0x22580000 = .ok (.setmax 600) ∧
    decode 0x20050001 = .error .nonzeroField := by decide

theorem test_decode_setpin :
    decode 0b00110000000000000000000000000011 = .ok (.setpin 3) ∧ decode 0x3000FFFF = .ok (.setpin 65535) ∧
    decode 0x30010003 = .error .nonzeroField := by decide

theorem test_decode_start : decode 0b01000000000000000000000000000000 = .ok .start ∧ decode 0x40000001 = .error .nonzeroField := by decide

theorem test_decode_startsingle : decode 0b01010000000000000000000000000000 = .ok .startsingle := by decide

theorem test_decode_stop : decode 0b01100000000000000000000000000000 = .ok .stop := by decide

theorem test_decode_read :
    decode 0b01110000000001010000000000000000 = .ok (.read 5) ∧ decode 0x7FFF0000 = .ok (.read (-1)) ∧
    decode 0x70050001 = .error .nonzeroField := by decide

theorem test_decode_readmax : decode 0b10000000000000000000000000000000 = .ok .readmax := by decide

theorem test_decode_status : decode 0b10010000000000000000000000000000 = .ok .status ∧ decode 0x90000010 = .error .nonzeroField := by decide

theorem test_decode_reserved :
    decode 0x00000000 = .error .reservedOpcode ∧ decode 0xA0000000 = .error .reservedOpcode ∧
    decode 0xF0000000 = .error .reservedOpcode := by decide

theorem test_encode :
    encode (.write 5 128) = some 0x10050080 ∧ encode (.write (-1) 7) = some 0x1FFF0007 ∧ encode (.setmax (-3)) = some 0x2FFD0000 ∧
    encode (.read 513) = some 0x72010000 ∧ encode .tick = none := by decide

/-- The interface reads a row's word and puts it where the next step takes it. -/
theorem test_withFetchWord :
    decodeTableWord 32 0x10050080 = some (.write 5 128) ∧ decodeTableWord 32 0 = none ∧
    field (step (idle.withFetchWord 32 0x10050080)) (fun t => (t.maxch, t.agenda)) = some (5, []) := by decide

/-! ## Single steps, from sections 3 to 7 of 95_test_vectors.md and the examples of the rules -/

theorem test_write_raises_count :
    field (exec (.write 5 128) idle) (fun t => (t.bufRead 5, t.bufRead 4, t.maxch)) = some (some 128, some 0, 5) := by decide

theorem test_write_saturates_and_ignores :
    field (exec (.write 3 300) live) (fun t => (t.bufRead 3, t.maxch)) = some (some 255, 5) ∧
    field (exec (.write 2 (-5)) live) (fun t => t.bufRead 2) = some (some 0) ∧
    field (exec (.write (-1) 7) live) (fun t => (t.buf, t.maxch)) = some ([], 5) := by decide

theorem test_setmax_clamps :
    field (exec (.setmax 600) live) State.maxch = some 512 ∧ field (exec (.setmax (-3)) live) State.maxch = some 1 ∧
    field (exec (.setmax 200) { live with cfg := { Config.chosen with capacity := .c128 } }) State.maxch = some 128 := by decide

theorem test_setpin_records :
    field (exec (.setpin 3) idle) (fun t => (t.pinsel, t.faults)) = some (some 3, FaultSet.empty) ∧
    field (exec (.setpin 6) { idle with cfg := { Config.chosen with pinMap := [(6, ⟨0, 0x0C⟩)] } }) (fun t => (t.pinsel, t.faults)) =
      some (none, ⟨false, false, false, true, false⟩) := by decide

theorem test_setpin_checks_activity_first :
    field (exec (.setpin 5) live) State.faults = some ⟨false, true, false, false, false⟩ ∧
    field (exec (.setpin 4) { inTick 3 43 .select with mode := .disabled }) State.faults = some ⟨false, true, false, false, false⟩ := by decide

theorem test_start_without_pin :
    field (exec .start idle) (fun t => (t.faults, t.mode, t.pindir)) = some (⟨false, false, true, false, false⟩, .disabled, false) := by decide

theorem test_start_restarts_and_keeps_the_line :
    field (exec .start { live with cursor := 3 }) (fun t => (t.cursor, t.mode, t.tie, t.line, t.draws)) =
      some (0, .continuous, true, .high, live.draws) := by decide

theorem test_startsingle_turns_into_a_single_frame :
    field (exec .startsingle (inTick 2 54 .select)) (fun t => (t.mode, t.cursor, t.tie, t.busy)) = some (.singleShot, 0, true, true) := by decide

theorem test_stop_keeps_the_cursor :
    field (exec .stop { live with cursor := 4 }) (fun t => (t.mode, t.tie, t.cursor, t.line)) = some (.disabled, false, 4, .high) := by decide

theorem test_read_zero_extends : field (exec (.read 1) { live with buf := [(1, 255)] }) State.responses = some [0x000000FF] := by decide

theorem test_read_out_of_range :
    field (exec (.read 0) live) (fun t => (t.faults, t.responses)) = some (⟨false, false, false, false, true⟩, []) ∧
    field (exec (.read 513) live) (fun t => t.faults.readOutOfRange) = some true := by decide

theorem test_readmax_responds : field (exec .readmax live) State.responses = some [0x00000005] := by decide

theorem test_status_in_a_tick : field (exec .status (inTick 2 54 .select)) State.responses = some [0x00020009] := by decide

theorem test_status_pending : field (exec .status { idle with tickPend := true }) State.responses = some [0x00000010] := by decide

theorem test_tick_loads_the_budget :
    field (exec .tick { live with tickPend := true }) (fun t => (t.rem, t.busy, t.tie, t.tickPend, t.phase, t.lead)) =
      some (100, true, false, false, .select, 0) := by decide

theorem test_select_exact_fit :
    field (exec .select (inTick 0 35 .select)) State.phase = some .stepA ∧ field (exec .select (inTick 0 34 .select)) State.phase = some .ret ∧
    field (exec .select (inTick 1 11 .select)) State.phase = some .stepB := by decide

theorem test_select_preserves_the_cursor :
    field (exec .select (inTick 3 10 .select)) (fun t => (t.phase, t.cursor)) = some (.ret, 3) := by decide

/-- The cycle-level example of section 3, begun at cycle 1000. -/
theorem test_stepA_cycles :
    field (exec .stepA { inTick 0 100 .stepA with now := 1000, toMark := 24600 })
      (fun t => (t.now, t.rem, [1407, 1408, 1535, 1536, 2111, 2112, 2239, 2240].map (levelAt t.wire))) =
      some (3240, 65, [some .low, some .high, some .high, some .low, some .low, some .high, some .high, none]) := by decide

theorem test_stepB_latches_the_channel :
    field (exec .stepB { inTick 5 54 .stepB with buf := [(5, 128)] }) (fun t => (t.rem, t.wire.map Seg.level)) =
      some (43, [.low, .low, .low, .low, .low, .low, .low, .low, .high, .high, .high]) := by decide

/-- A mark that falls inside a step is pending after it. -/
theorem test_stepB_meets_a_mark :
    field (exec .stepB (inTick 5 54 .stepB)) (fun t => (t.tickPend, t.toMark, t.now, t.gie)) = some (true, 24996, 26204, true) := by decide

theorem test_advance_wraps :
    field (exec .advance (inTick 5 43 .advance)) (fun t => (t.cursor, t.phase)) = some (0, .boundary) ∧
    field (exec .advance (inTick 0 65 .advance)) (fun t => (t.cursor, t.phase)) = some (1, .select) := by decide

theorem test_advance_after_a_lowered_count :
    field (exec .advance { inTick 2 39 .advance with maxch := 1 }) (fun t => (t.cursor, t.phase)) = some (0, .boundary) := by decide

theorem test_boundary_ends_a_single_shot :
    field (exec .boundary { inTick 0 43 .boundary with mode := .singleShot, tie := true }) (fun t => (t.mode, t.tie, t.busy)) =
      some (.disabled, false, false) := by decide

theorem test_boundary_goes_on_in_continuous_mode :
    field (exec .boundary (inTick 0 10 .boundary)) (fun t => (t.mode, t.busy, t.phase)) = some (.continuous, true, .select) := by decide

theorem test_return_enables :
    field (exec .ret (inTick 4 7 .ret)) (fun t => (t.tie, t.busy, t.cursor)) = some (true, false, 4) ∧
    field (exec .ret { inTick 4 7 .ret with mode := .disabled }) (fun t => (t.tie, t.busy)) = some (false, false) := by decide

theorem test_txbyte_order :
    field (exec (.txbyte 0xA5) (inTick 1 50 .select)) (fun t => t.wire.map Seg.level) =
      some [.low, .high, .low, .high, .low, .low, .high, .low, .high, .high, .high] ∧
    field (exec (.txbyte 0x0F) (inTick 1 50 .select)) (fun t => t.wire.map Seg.level) =
      some [.low, .high, .high, .high, .high, .low, .low, .low, .low, .high, .high] := by decide

theorem test_break_length :
    field (exec .brk (inTick 0 65 .select)) (fun t => (t.wire, t.line)) = some (List.replicate 22 ⟨.low, 64⟩, .low) := by decide

/-- Only the bit of the line is driven: the other bits of the port keep their levels. -/
theorem test_break_drives_one_bit :
    field (exec .brk { inTick 0 65 .select with portOut := [(0, 0xFF), (1, 0x08)] }) State.portOut = some [(0, 0xF7), (1, 0x08)] := by decide

theorem test_mab_length : field (exec .mab (inTick 0 65 .select)) (fun t => (t.wire, t.line)) = some (List.replicate 2 ⟨.high, 64⟩, .high) := by decide

theorem test_illegal_word :
    field (step { live with agenda := [.command 0x30010003] }) (fun t => (t.faults, t.agenda)) =
      some (⟨true, false, false, false, false⟩, []) := by decide

/-- Reset during STEP_A at slot 10 of the break. -/
theorem test_reset_cuts_the_break :
    field (step { inTick 0 100 .stepA with agenda := [.reset 640] }) (fun t => (wireCycles t.wire, t.line, t.busy, t.now, t.maxch)) =
      some (640, .z, false, 0, 1) := by decide

/-- A tick mark while the source is disabled stays pending, and is delivered at the cycle of the START (V4.14). -/
theorem test_pending_tick_at_start :
    field (exec .start { live with mode := .disabled, tie := false, tickPend := true }) State.engineOp = some (some .tick) := by decide

/-! ## States of the invariant -/

theorem chosen_valid : Config.chosen.Valid := by constructor <;> decide

/-- Parameters at the edges of their ranges, with the budget one short of Step A. -/
def edge : Config :=
  { Config.chosen with capacity := .c128, cpb := 1, tickCycles := 1, budgetBits := 34, resetMaxChannel := 128 }

theorem edge_valid : edge.Valid := by constructor <;> decide

theorem idle_inv : idle.Inv := by
  constructor
  case cfg_valid => exact chosen_valid
  case mark_grid => exact ⟨1, rfl⟩
  case pinsel_valid => intro p hp; cases hp
  case active_pin => intro h; exact absurd h (by decide)
  case pindesc_some => intro h; cases h
  case line_pin => intro d hd; cases hd
  case phase_ok => intro h; cases h
  all_goals decide

theorem live_inv_of (s : State) (hcfg : s.cfg = Config.chosen ∨ s.cfg = { Config.chosen with budgetBits := 34 } ∨
      s.cfg = { Config.chosen with budgetBits := 10 } ∨ s.cfg = { Config.chosen with budgetBits := 90 })
    (hpin : s.pinsel = some 3 ∧ s.pindesc = some ⟨0, 0x08⟩ ∧ s.pindir = true ∧ s.portDir = [(0, 0x08)])
    (hline : s.line = .high ∧ s.portOut = [(0, 0x08)] ∨ s.line = .low ∧ s.portOut = [])
    (htime : s.now = 25500 ∧ s.toMark = 100 ∧ s.tickPhase = 0)
    (hbuf : s.buf = [] ∧ s.maxch = 5 ∧ s.cursor.toNat ≤ 512)
    (htick : s.rem ≤ s.cfg.budgetBits ∧ s.lead = 0 ∧ (s.busy = false → s.phase = .select ∧ (s.tie = true ↔ s.mode ≠ .disabled)) ∧ s.phaseOk) :
    s.Inv := by
  obtain ⟨hp1, hp2, hp3, hp4⟩ := hpin
  obtain ⟨ht1, ht2, ht3⟩ := htime
  obtain ⟨hb1, hb2, hb3⟩ := hbuf
  obtain ⟨hr, hl, hi, hph⟩ := htick
  have hv : s.cfg.Valid := by rcases hcfg with h | h | h | h <;> rw [h] <;> constructor <;> decide
  have hcap : s.cfg.capacity.size = 512 := by rcases hcfg with h | h | h | h <;> rw [h] <;> rfl
  have hper : s.cfg.tickCycles = 25600 := by rcases hcfg with h | h | h | h <;> rw [h] <;> rfl
  have hmap : s.pinMap 3 = some ⟨0, 0x08⟩ := by
    unfold State.pinMap; rcases hcfg with h | h | h | h <;> rw [h] <;> decide
  have hone : s.oneLine ⟨0, 0x08⟩ = true := by
    unfold State.oneLine; rcases hcfg with h | h | h | h <;> rw [h] <;> decide
  constructor
  case cfg_valid => exact hv
  case buf_wf => rw [hb1]; decide
  case buf_channels => rw [hb1]; simp
  case maxch_pos => rw [hb2]; decide
  case maxch_le => rw [hb2, hcap]; decide
  case cursor_le => rw [hcap]; exact hb3
  case tie_iff => exact fun h => (hi h).2
  case pinsel_valid => intro p hp; rw [hp1] at hp; cases hp; unfold State.pinValid; rw [hmap]; exact hone
  case active_pin => intro _; exact ⟨hp3, 3, hp1, hp2.trans hmap.symm⟩
  case pindesc_some => intro _; exact ⟨_, hp2, hone⟩
  case pindesc_none => intro h; rw [hp3] at h; cases h
  case line_z => rw [hp3]; rcases hline with ⟨h, -⟩ | ⟨h, -⟩ <;> rw [h] <;> decide
  case line_pin =>
    intro d hd; rw [hp2] at hd; cases hd
    unfold State.pinLevel State.dirBits State.portBits; rw [hp4]
    rcases hline with ⟨h, h'⟩ | ⟨h, h'⟩ <;> rw [h, h'] <;> decide
  case portOut_wf => rcases hline with ⟨-, h⟩ | ⟨-, h⟩ <;> rw [h] <;> decide
  case portDir_wf => rw [hp4]; decide
  case rem_le => exact hr
  case phase_ok => exact fun _ => hph
  case idle_phase => exact fun h => ⟨(hi h).1, hl⟩
  case lead_select => intro h; rw [hl] at h; cases h
  case lead_le => rw [hl]; exact Nat.zero_le _
  case tickPhase_lt => rw [ht3, hper]; decide
  case toMark_le => rw [ht2, hper]; decide
  case mark_grid => exact ⟨1, by rw [ht1, ht2, ht3, hper]⟩

theorem live_inv : live.Inv :=
  live_inv_of live (.inl rfl) ⟨rfl, rfl, rfl, rfl⟩ (.inl ⟨rfl, rfl⟩) ⟨rfl, rfl, rfl⟩ (by decide) ⟨by decide, rfl, by decide, trivial⟩

/-- The idle block with a tick due. -/
def due : State := { live with tickPend := true }

theorem due_inv : due.Inv :=
  live_inv_of due (.inl rfl) ⟨rfl, rfl, rfl, rfl⟩ (.inl ⟨rfl, rfl⟩) ⟨rfl, rfl, rfl⟩ (by decide) ⟨by decide, rfl, by decide, trivial⟩

/-- A block inside a tick, about to run Step A, with the line low. -/
def lowStepA : State := { inTick 0 100 .stepA with line := .low, portOut := [] }

theorem lowStepA_inv : lowStepA.Inv :=
  live_inv_of lowStepA (.inl rfl) ⟨rfl, rfl, rfl, rfl⟩ (.inr ⟨rfl, rfl⟩) ⟨rfl, rfl, rfl⟩ (by decide)
    ⟨by decide, rfl, by decide, rfl, by decide⟩

/-- A block between two steps of a tick. -/
theorem inTick_inv : (inTick 3 43 .select).Inv :=
  live_inv_of _ (.inl rfl) ⟨rfl, rfl, rfl, rfl⟩ (.inl ⟨rfl, rfl⟩) ⟨rfl, rfl, rfl⟩ (by decide) ⟨by decide, rfl, by decide, trivial⟩

/-! ## Witnesses: states and operands that meet the hypotheses of each obligation -/

theorem witness_ResetStateIsTheTable : Config.chosen.Valid ∧ edge.Valid := ⟨chosen_valid, edge_valid⟩

theorem witness_ResetEventLeavesTheTable :
    ∃ (s : State) (after : Nat) (rest : List Event), s.cfg.Valid ∧ s.agenda = .reset after :: rest ∧ s.busy = true :=
  ⟨{ inTick 3 43 .stepB with agenda := [.reset 5, .engine] }, 5, [.engine], chosen_valid, rfl, rfl⟩

theorem witness_ResetCutsTheStepShort_stepA :
    ∃ (s : State) (after : Nat) (rest : List Event), s.agenda = .reset after :: rest ∧ s.busy = true ∧ s.lead = 0 ∧ s.phase = .stepA ∧ after = 35 * s.cfg.cpb :=
  ⟨{ inTick 0 43 .stepA with agenda := [.reset 2240] }, 2240, [], rfl, rfl, rfl, rfl, rfl⟩

theorem witness_ResetCutsTheStepShort_stepB :
    ∃ (s : State) (after : Nat) (rest : List Event) (v : Byte), s.agenda = .reset after :: rest ∧ s.busy = true ∧ s.lead = 0 ∧ s.phase = .stepB ∧ after ≤ 11 * s.cfg.cpb ∧
      s.bufRead s.cursor.toNat = some v :=
  ⟨{ inTick 512 43 .stepB with agenda := [.reset 0] }, 0, [], 0, rfl, rfl, rfl, rfl, by decide, by decide⟩

theorem witness_ResetCutsTheStepShort_idle :
    ∃ (s : State) (after : Nat) (rest : List Event), s.agenda = .reset after :: rest ∧ (s.busy = false ∨ 0 < s.lead ∨ (s.phase ≠ .stepA ∧ s.phase ≠ .stepB)) :=
  ⟨{ idle with agenda := [.reset 5] }, 5, [], rfl, .inl rfl⟩

theorem witness_WriteStoresClampedByte_in_range :
    Memory.wf live.buf = true ∧ (1 ≤ (1 : Int) ∧ (1 : Int) ≤ live.cfg.capacity.size) ∧ (1 ≤ (512 : Int) ∧ (512 : Int) ≤ live.cfg.capacity.size) := by
  decide

theorem witness_WriteStoresClampedByte_out_of_range : (0 : Int) < 1 ∧ (live.cfg.capacity.size : Int) < 513 := by decide

theorem witness_ReadRespondsTheByte :
    (1 ≤ (1 : Int) ∧ (1 : Int) ≤ live.cfg.capacity.size) ∧ (1 ≤ (512 : Int) ∧ (512 : Int) ≤ live.cfg.capacity.size) ∧ (0 : Int) < 1 ∧
    (live.cfg.capacity.size : Int) < 513 := by decide

theorem witness_WriteThenReadGivesTheValue :
    Memory.wf live.buf = true ∧ 1 ≤ (512 : Int) ∧ (512 : Int) ≤ live.cfg.capacity.size ∧ 0 ≤ (255 : Int) ∧ (255 : Int) ≤ 255 := by decide

theorem witness_ChannelChangesOnlyByWrite :
    ∃ s t : State, step s = .next t ∧ s.resetNext = false ∧ ∀ val, ¬ s.commandNext (.write 6 val) := by
  refine ⟨{ live with agenda := [.command 0x10050080] }, _, rfl, rfl, ?_⟩
  rintro val ⟨w, rest, ha, hd, -⟩
  cases ha
  have h : decode 0x10050080 = .ok (.write 5 128) := by decide
  rw [h] at hd; cases hd

theorem witness_StartBeginsATransmission_driven_line :
    ∃ (s : State) (p : PinId), s.pinsel = some p ∧ storeWf 0 s.portOut = true ∧ storeWf 0 s.portDir = true ∧ s.pindir = true ∧
      s.pindesc = s.pinMap p := ⟨live, 3, by decide⟩

theorem witness_StartBeginsATransmission_first_line :
    ∃ (s : State) (p : PinId), s.pinsel = some p ∧ storeWf 0 s.portOut = true ∧ storeWf 0 s.portDir = true ∧ s.pindir = false :=
  ⟨{ idle with pinsel := some 4 }, 4, by decide⟩

theorem witness_StartBeginsATransmission_other_line :
    ∃ (s : State) (p : PinId), s.pinsel = some p ∧ storeWf 0 s.portOut = true ∧ storeWf 0 s.portDir = true ∧ s.pindesc ≠ s.pinMap p :=
  ⟨{ live with pinsel := some 4 }, 4, by decide⟩

theorem witness_SetpinRecordsAOneLinePin_active : live.mode ≠ .disabled ∧ (inTick 3 43 .select).busy = true := by decide

theorem witness_SetpinRecordsAOneLinePin_one_line :
    idle.mode = .disabled ∧ idle.busy = false ∧ ∃ d, idle.pinMap 3 = some d ∧ ∃! k, k < idle.cfg.portWidth ∧ d.mask.testBit k = true := by
  refine ⟨rfl, rfl, ⟨0, 0x08⟩, by decide, 3, by decide, ?_⟩
  rintro k ⟨hk, hb⟩
  have h : ∀ j, j < 8 → Nat.testBit 0x08 j = true → j = 3 := by decide
  exact h k hk hb

theorem witness_SetpinRecordsAOneLinePin_no_line :
    idle.mode = .disabled ∧ idle.busy = false ∧
      ¬ ∃ d, idle.pinMap 5 = some d ∧ ∃! k, k < idle.cfg.portWidth ∧ d.mask.testBit k = true := by
  refine ⟨rfl, rfl, ?_⟩
  rintro ⟨d, hd, -⟩
  have h : idle.pinMap 5 = none := by decide
  rw [h] at hd; cases hd

theorem witness_PinIsFixedWhileActive : ∃ s t : State, s.Inv ∧ s.active = true ∧ step s = .next t ∧ s.resetNext = false :=
  ⟨live, _, live_inv, by decide, rfl, rfl⟩

theorem witness_StartBeginsATransmission_no_pin : idle.pinsel = none := rfl

theorem witness_RestartBeginsANewFrame : ∃ s t : State, s.Inv ∧ s.pinsel ≠ none ∧ s.startNext ∧ step s = .next t := by
  refine ⟨{ inTick 3 43 .select with agenda := [.command 0x40000000] }, _, ?_, by decide,
    .inl ⟨0x40000000, [], rfl, by decide, by decide⟩, rfl⟩
  exact live_inv_of _ (.inl rfl) ⟨rfl, rfl, rfl, rfl⟩ (.inl ⟨rfl, rfl⟩) ⟨rfl, rfl, rfl⟩ (by decide) ⟨by decide, rfl, by decide, trivial⟩

theorem witness_OnlyStartWakesTheQuietBlock :
    ∃ s t : State, s.mode = .disabled ∧ s.tie = false ∧ s.busy = false ∧ step s = .next t ∧ s.resetNext = false ∧ ¬ s.startNext := by
  refine ⟨idle, _, rfl, rfl, rfl, rfl, rfl, ?_⟩
  rintro (⟨w, rest, ha, -⟩ | ⟨w, rest, ha, -⟩) <;> cases ha

theorem witness_StepRunsTheDecodedCommand :
    ∃ (s : State) (w : Word) (rest : List Event) (i : Instr), s.agenda = .command w :: rest ∧ decode w = .ok i ∧ s.defers i = false ∧
      s.busy = false ∧ i ≠ .start ∧ i ≠ .startsingle :=
  ⟨{ live with agenda := [.command 0x10050080] }, 0x10050080, [], .write 5 128, rfl, by decide⟩

theorem witness_StartWaitsForTheStepInProgress :
    ∃ (s : State) (w : Word) (rest : List Event) (i : Instr), s.agenda = .command w :: rest ∧ decode w = .ok i ∧
      (i = .start ∨ i = .startsingle) ∧ s.busy = true ∧ s.lead = 0 ∧ (s.phase = .stepB ∨ s.phase = .advance) :=
  ⟨{ inTick 3 43 .advance with agenda := [.command 0x40000000] }, 0x40000000, [], .start, rfl, by decide⟩

theorem witness_StartWaitsForTheStepInProgress_boundary :
    ∃ (s : State) (w : Word) (rest : List Event) (i : Instr), s.agenda = .command w :: rest ∧ decode w = .ok i ∧
      i = .startsingle ∧ s.busy = true ∧ s.lead = 0 ∧ s.phase = .boundary :=
  ⟨{ inTick 0 43 .boundary with agenda := [.command 0x50000000] }, 0x50000000, [], .startsingle, rfl, by decide⟩

/-- Each place inside a tick where a START is taken, RETURN and BOUNDARY among them. -/
theorem witness_StartIsTakenBetweenSteps :
    ∀ p : Phase, p = .select ∨ p = .stepA ∨ p = .ret ∨ p = .boundary →
      ∃ (s : State) (w : Word) (rest : List Event) (i : Instr), s.agenda = .command w :: rest ∧ decode w = .ok i ∧ i = .start ∧
        s.busy = true ∧ s.phase = p :=
  fun p _ => ⟨{ inTick 0 43 p with agenda := [.command 0x40000000] }, 0x40000000, [], .start, rfl, by decide, rfl, rfl, rfl⟩

theorem witness_IllegalWordRecordsTheFault_opcode :
    ({ live with agenda := [.command 0xA0000000] } : State).agenda = [.command 0xA0000000] ∧ 10 ≤ (0xA0000000 : Word).toNat / 2 ^ 28 ∧
      (0x0FFFFFFF : Word).toNat / 2 ^ 28 = 0 := by decide

theorem witness_IllegalWordRecordsTheFault_field :
    2 ≤ (0x20050001 : Word).toNat / 2 ^ 28 ∧ (0x90000010 : Word).toNat / 2 ^ 28 ≤ 9 ∧
    (∀ row ∈ encodingTable, row.pattern.toNat / 2 ^ 28 = (0x20050001 : Word).toNat / 2 ^ 28 → (0x20050001 : Word) &&& row.mask ≠ row.pattern) ∧
    ∀ row ∈ encodingTable, row.pattern.toNat / 2 ^ 28 = (0x90000010 : Word).toNat / 2 ^ 28 → (0x90000010 : Word) &&& row.mask ≠ row.pattern := by
  decide

theorem witness_OperandsAreAssembledAsStated :
    decode 0x1800FFFF = .ok (.write (-2048) (-1)) ∧ decode 0x27FF0000 = .ok (.setmax 2047) ∧ decode 0x3000FFFF = .ok (.setpin 65535) ∧
    decode 0x78000000 = .ok (.read (-2048)) := by decide

theorem witness_DecodeOfEncodeIsTheCommand :
    (Instr.write (-2048) 32767).isHost = true ∧ (Instr.write (-2048) 32767).wellFormed = true ∧ (Instr.read 2047).wellFormed = true ∧
    (Instr.setmax (-2048)).wellFormed = true ∧ (Instr.write 2047 (-32768)).wellFormed = true := by decide

theorem witness_EncodeOfDecodeIsTheWord : decode 0x17FF8000 = .ok (.write 2047 (-32768)) := by decide

theorem witness_TxbyteEmitsTheFrame : live.cfg.Valid ∧ storeWf 0 live.portOut = true := ⟨chosen_valid, by decide⟩

theorem witness_BreakAndMabHoldTheLine : edge.Valid ∧ storeWf 0 lowStepA.portOut = true := ⟨edge_valid, by decide⟩

theorem witness_OnlyTheSelectedLineIsDriven :
    ∃ (s t : State) (port k : Nat), s.Inv ∧ step s = .next t ∧ s.resetNext = false ∧
      (t.portBits port).testBit k ≠ (s.portBits port).testBit k :=
  ⟨lowStepA, _, 0, 3, lowStepA_inv, rfl, rfl, by decide⟩

theorem witness_LineStaysHighBetweenSteps :
    ∃ s t : State, s.Inv ∧ s.line = .high ∧ step s = .next t ∧ s.resetNext = false ∧ ¬ s.startNext := by
  refine ⟨live, _, live_inv, rfl, rfl, rfl, ?_⟩
  rintro (⟨w, rest, ha, -⟩ | ⟨w, rest, ha, -⟩) <;> cases ha

theorem witness_TickEntersWithTheBudget : due.Inv ∧ due.tie = true ∧ due.busy = false ∧ due.tickPend = true := ⟨due_inv, by decide⟩

theorem witness_SelectChoosesTheStep :
    ((inTick 0 35 .select).cursor = 0 ∧ 35 ≤ (inTick 0 35 .select).rem) ∧ ((inTick 0 34 .select).cursor = 0 ∧ (inTick 0 34 .select).rem < 35) ∧
    ((inTick 1 11 .select).cursor ≠ 0 ∧ 11 ≤ (inTick 1 11 .select).rem) ∧ ((inTick 1 10 .select).cursor ≠ 0 ∧ (inTick 1 10 .select).rem < 11) := by
  decide

theorem witness_StepAEmitsBreakMabAndStartCode :
    lowStepA.cfg.Valid ∧ storeWf 0 lowStepA.portOut = true ∧ 35 ≤ (inTick 0 35 .stepA).rem := ⟨chosen_valid, by decide⟩

theorem witness_StepBEmitsTheChannel :
    (inTick 512 11 .stepB).cfg.Valid ∧ storeWf 0 (inTick 512 11 .stepB).portOut = true ∧ 11 ≤ (inTick 512 11 .stepB).rem ∧
      1 ≤ (inTick 1 11 .stepB).cursor.toNat ∧ 1 ≤ (inTick 512 11 .stepB).cursor.toNat ∧
      (inTick 512 11 .stepB).cursor.toNat ≤ (inTick 512 11 .stepB).cfg.capacity.size := ⟨chosen_valid, by decide⟩

theorem witness_StepBStopsOffTheBuffer :
    (inTick 0 11 .stepB).cursor.toNat < 1 ∧ (inTick 513 11 .stepB).cfg.capacity.size < (inTick 513 11 .stepB).cursor.toNat := by decide

theorem witness_AdvanceWrapsPastTheCount :
    (inTick 5 43 .advance).maxch.toNat < (inTick 5 43 .advance).cursor.toNat + 1 ∧
    (inTick 4 43 .advance).cursor.toNat + 1 ≤ (inTick 4 43 .advance).maxch.toNat := by decide

theorem witness_BoundaryEndsUnlessContinuous :
    (inTick 0 43 .boundary).mode = .continuous ∧ ({ inTick 0 43 .boundary with mode := .singleShot } : State).mode ≠ .continuous := by decide

theorem witness_ReturnEnablesUnlessDisabled :
    (inTick 0 7 .ret).mode ≠ .disabled ∧ ({ inTick 0 7 .ret with mode := .disabled } : State).mode = .disabled := by decide

theorem witness_EngineRunsTheSelectedOperation :
    ((inTick 3 43 .stepB).busy = true ∧ (inTick 3 43 .stepB).lead = 0 ∧ (inTick 3 43 .stepB).agenda = []) ∧
    (due.tie = true ∧ due.busy = false ∧ due.tickPend = true ∧ due.agenda = []) ∧
    ({ inTick 3 43 .stepB with agenda := [.engine] } : State).agenda = [.engine] ∧ ({ due with agenda := [.engine] } : State).tie = true := by decide

theorem witness_TickAgreesWithTheProcedure : due.Inv ∧ due.tie = true ∧ due.busy = false ∧ due.tickPend = true ∧ due.agenda = [] :=
  ⟨due_inv, by decide⟩

theorem witness_TickEndsWithinItsBudget : due.Inv ∧ due.tie = true ∧ due.busy = false ∧ due.tickPend = true ∧ due.agenda = [] :=
  ⟨due_inv, by decide⟩

theorem witness_ZeroStepTickEmitsNothing_before_stepA :
    ∃ s : State, s.Inv ∧ s.tie = true ∧ s.busy = false ∧ s.tickPend = true ∧ s.agenda = [] ∧ s.cursor = 0 ∧ s.cfg.budgetBits = 34 :=
  ⟨{ due with cfg := { Config.chosen with budgetBits := 34 } },
    live_inv_of _ (.inr (.inl rfl)) ⟨rfl, rfl, rfl, rfl⟩ (.inl ⟨rfl, rfl⟩) ⟨rfl, rfl, rfl⟩ (by decide) ⟨by decide, rfl, by decide, trivial⟩,
    by decide⟩

theorem witness_ZeroStepTickEmitsNothing_before_stepB :
    ∃ s : State, s.Inv ∧ s.tie = true ∧ s.busy = false ∧ s.tickPend = true ∧ s.agenda = [] ∧ s.cursor ≠ 0 ∧ s.cfg.budgetBits = 10 :=
  ⟨{ due with cfg := { Config.chosen with budgetBits := 10 }, cursor := 1 },
    live_inv_of _ (.inr (.inr (.inl rfl))) ⟨rfl, rfl, rfl, rfl⟩ (.inl ⟨rfl, rfl⟩) ⟨rfl, rfl, rfl⟩ (by decide)
      ⟨by decide, rfl, by decide, trivial⟩,
    by decide⟩

/-- The budget is exactly the frame's 90 slots. -/
theorem witness_SingleShotSendsExactlyOneFrame :
    ∃ s : State, s.Inv ∧ s.mode = .singleShot ∧ s.cursor = 0 ∧ s.busy = false ∧ s.tickPend = true ∧ s.agenda = [] ∧
      35 + 11 * s.maxch.toNat = s.cfg.budgetBits :=
  ⟨{ due with cfg := { Config.chosen with budgetBits := 90 }, mode := .singleShot },
    live_inv_of _ (.inr (.inr (.inr rfl))) ⟨rfl, rfl, rfl, rfl⟩ (.inl ⟨rfl, rfl⟩) ⟨rfl, rfl, rfl⟩ (by decide)
      ⟨by decide, rfl, by decide, trivial⟩,
    by decide⟩

theorem witness_StarvedTransmissionNeverEmits : ∃ s t : State, s.Starved ∧ step s = .next t ∧ s.resetNext = false :=
  ⟨{ due with cfg := { Config.chosen with budgetBits := 34 } }, _, ⟨by decide, by decide, rfl, .inl rfl⟩, rfl, rfl⟩

theorem witness_TickSourceIsCycleByCycle : 1 ≤ edge.tickCycles := by decide

theorem witness_BusyRisesOnlyByDelivery_rises : ∃ s t : State, step s = .next t ∧ s.busy = false ∧ t.busy = true := ⟨due, _, rfl, rfl, rfl⟩

theorem witness_BusyRisesOnlyByDelivery_falls :
    ∃ s t : State, step s = .next t ∧ s.busy = true ∧ t.busy = false ∧ s.resetNext = false := ⟨inTick 3 7 .ret, _, rfl, rfl, rfl, rfl⟩

theorem witness_NoTimePassesADueDelivery :
    ∃ s t : State, s.tie = true ∧ s.busy = false ∧ s.tickPend = true ∧ step s = .next t ∧ s.resetNext = false :=
  ⟨{ due with agenda := [.pass 7] }, _, rfl, rfl, rfl, rfl, rfl⟩

theorem witness_DueMarkSetsPending :
    ∃ (s s' : State) (rest : List Event), s.agenda = .mark :: rest ∧ s.toMark = 0 ∧ s'.agenda = .mark :: rest ∧ s'.toMark ≠ 0 :=
  ⟨{ live with agenda := [.mark], toMark := 0 }, { live with agenda := [.mark] }, [], rfl, rfl, rfl, by decide⟩

theorem witness_IdleBlockWaitsForTheMark : idle.agenda = [] ∧ idle.busy = false ∧ idle.tie = false ∧ live.tickPend = false := by decide

theorem witness_WireTraceFollowsTime : ∃ s t : State, step s = .next t ∧ s.resetNext = false ∧ t.now ≠ s.now :=
  ⟨inTick 3 43 .stepB, _, rfl, rfl, by decide⟩

theorem witness_HostCommandsTakeNoTime : ∃ (i : Instr) (s t : State), i.isHost = true ∧ exec i s = .next t := ⟨.stop, live, _, rfl, rfl⟩

theorem witness_RegistersChangeOnlyByTheirWriters :
    ∃ s t : State, step s = .next t ∧ s.resetNext = false ∧ t.cursor ≠ s.cursor := ⟨inTick 4 43 .advance, _, rfl, rfl, by decide⟩

theorem witness_RegistersChangeOnlyByTheirWriters_mode :
    ∃ s t : State, step s = .next t ∧ s.resetNext = false ∧ t.mode ≠ s.mode :=
  ⟨{ inTick 0 43 .boundary with mode := .singleShot }, _, rfl, rfl, by decide⟩

theorem witness_RegistersChangeOnlyByTheirWriters_maxch :
    ∃ s t : State, step s = .next t ∧ s.resetNext = false ∧ t.maxch ≠ s.maxch := ⟨{ live with agenda := [.command 0x20010000] }, _, rfl, rfl, by decide⟩

theorem witness_RegistersChangeOnlyByTheirWriters_pinsel :
    ∃ s t : State, step s = .next t ∧ s.resetNext = false ∧ t.pinsel ≠ s.pinsel := ⟨{ idle with agenda := [.command 0x30000003] }, _, rfl, rfl, by decide⟩

theorem witness_RegistersChangeOnlyByTheirWriters_tie :
    ∃ s t : State, step s = .next t ∧ s.resetNext = false ∧ t.tie ≠ s.tie := ⟨inTick 3 7 .ret, _, rfl, rfl, by decide⟩

theorem witness_RegistersChangeOnlyByTheirWriters_pindesc :
    ∃ s t : State, step s = .next t ∧ s.resetNext = false ∧ t.pindesc ≠ s.pindesc :=
  ⟨{ live with pinsel := some 4, agenda := [.command 0x40000000] }, _, rfl, rfl, by decide⟩

theorem witness_TickStateChangesOnlyByItsWriters_step :
    ∃ s t : State, step s = .next t ∧ s.resetNext = false ∧ t.line ≠ s.line ∧ t.rem ≠ s.rem ∧ t.phase ≠ s.phase :=
  ⟨lowStepA, _, rfl, rfl, by decide, by decide, by decide⟩

theorem witness_TickStateChangesOnlyByItsWriters_tick :
    ∃ s t : State, step s = .next t ∧ s.resetNext = false ∧ t.busy ≠ s.busy ∧ s.tickPend = true ∧ t.tickPend = false :=
  ⟨due, _, rfl, rfl, by decide, rfl, rfl⟩

theorem witness_ConfigAndInterruptEnableAreKept : ∃ s t : State, step s = .next t ∧ s.resetNext = false := ⟨lowStepA, _, rfl, rfl⟩

theorem witness_FaultsAreSticky :
    ∃ (s t : State) (code : FaultCode), step s = .next t ∧ s.resetNext = false ∧ s.faults.has code = true :=
  ⟨{ live with faults := ⟨false, false, true, false, false⟩ }, _, .noPinSelected, rfl, rfl, rfl⟩

theorem witness_EngineRecordsNoFault : ∃ s t : State, step s = .next t ∧ t.faults ≠ s.faults :=
  ⟨{ live with agenda := [.command 0x00000000] }, _, rfl, by decide⟩

theorem witness_InvariantHoldsAtReset : edge.Valid := edge_valid

theorem witness_StepKeepsTheInvariant : ∃ s t : State, s.Inv ∧ step s = .next t := ⟨due, _, due_inv, rfl⟩

theorem witness_MachineNeverStops : (inTick 3 43 .select).Inv ∧ idle.Inv := ⟨inTick_inv, idle_inv⟩

end Sys2Proof.Tests
end

section
/-! The wire trace and the passing of time: the pieces an operation appends to the trace last as long as the operation takes (00 R12, R15). -/

namespace Sys2Proof.Machine

/-! ## Lengths of pieces of the wire trace -/

@[simp] theorem wireCycles_nil : wireCycles [] = 0 := rfl

@[simp] theorem wireCycles_append (v w : List Seg) : wireCycles (v ++ w) = wireCycles v + wireCycles w := by
  simp [wireCycles]

@[simp] theorem wireCycles_idleSegs (level : Level) (n : Nat) : wireCycles (idleSegs level n) = n := by
  unfold idleSegs
  split
  · next h => exact h.symm
  · simp [wireCycles]

theorem State.elapse_wire_eq_idleSegs (s : State) (n : Nat) : (s.elapse n).wire = s.wire ++ idleSegs s.line n := by
  unfold idleSegs
  split <;> simp [*]

/-! ## The relation between two states -/

/-- From `s` to `t` the wire trace grows by exactly the cycles that pass. -/
def WireFollowsTime (s t : State) : Prop := ∃ w, t.wire = s.wire ++ w ∧ t.now = s.now + wireCycles w

theorem WireFollowsTime.of_kept {s t : State} (hwire : t.wire = s.wire) (hnow : t.now = s.now) : WireFollowsTime s t :=
  ⟨[], by simp [hwire], by simp [hnow]⟩

theorem WireFollowsTime.trans {s t u : State} (h : WireFollowsTime s t) (k : WireFollowsTime t u) : WireFollowsTime s u := by
  obtain ⟨v, hv, hnv⟩ := h
  obtain ⟨w, hw, hnw⟩ := k
  exact ⟨v ++ w, by simp [hv, hw], by rw [hnw, hnv, wireCycles_append, Nat.add_assoc]⟩

theorem State.elapse_wireFollowsTime (s : State) (n : Nat) : WireFollowsTime s (s.elapse n) :=
  ⟨idleSegs s.line n, s.elapse_wire_eq_idleSegs n, by simp⟩

/-- Driving the line takes no time, so a slot's piece is that of its CPB cycles. -/
theorem State.emitSlot_wireFollowsTime (s : State) (l : Level) : WireFollowsTime s (s.emitSlot l) :=
  (s.setLine l).elapse_wireFollowsTime s.cfg.cpb

/-- This holds for every CPB: slots of no cycles leave no piece. -/
theorem State.emitLevels_wireFollowsTime (s : State) (ls : List Level) : WireFollowsTime s (s.emitLevels ls) := by
  induction ls generalizing s with
  | nil => exact .of_kept rfl rfl
  | cons l ls ih => exact (s.emitSlot_wireFollowsTime l).trans (ih _)

/-- Masking interrupts and restoring them adds nothing to what the body does. -/
theorem State.critical_wireFollowsTime (s : State) {body : State → State} (h : ∀ u, WireFollowsTime u (body u)) :
    WireFollowsTime s (s.critical body) :=
  h { s with gie := false }

/-- The emission of a step, with the budget charged before it and ADVANCE selected after it. -/
theorem State.stepEmission_wireFollowsTime (s : State) (left : Nat) (ls : List Level) :
    WireFollowsTime s { ({ s with rem := left } : State).critical (State.emitLevels · ls) with phase := .advance } := by
  obtain ⟨w, hwire, hnow⟩ := ({ s with rem := left } : State).critical_wireFollowsTime fun u => u.emitLevels_wireFollowsTime ls
  exact ⟨w, hwire, hnow⟩

/-! ## Host commands and engine operations -/

@[simp] theorem State.beginTransmission_wire (s : State) (m : Mode) (pin : PinId) : (s.beginTransmission m pin).wire = s.wire := by
  unfold State.beginTransmission
  simp only
  split <;> rfl

@[simp] theorem State.beginTransmission_now (s : State) (m : Mode) (pin : PinId) : (s.beginTransmission m pin).now = s.now := by
  unfold State.beginTransmission
  simp only
  split <;> rfl

/-- A host command keeps the wire trace and the cycle (70 R345). -/
theorem host_keeps_wire_and_now {s t : State} {i : Instr} (hi : i.isHost = true) (he : exec i s = .next t) :
    t.wire = s.wire ∧ t.now = s.now := by
  cases i <;> simp only [Instr.isHost, Bool.false_eq_true] at hi <;> simp only [exec] at he
  case write ch val => cases he; split <;> exact ⟨rfl, rfl⟩
  case setmax ch => cases he; exact ⟨rfl, rfl⟩
  case setpin pin => cases he; split_ifs <;> exact ⟨rfl, rfl⟩
  case start => unfold execStart at he; split at he <;> cases he <;> simp
  case startsingle => unfold execStartsingle at he; split at he <;> cases he <;> simp
  case stop => cases he; exact ⟨rfl, rfl⟩
  case read ch => cases he; split <;> exact ⟨rfl, rfl⟩
  case readmax => cases he; exact ⟨rfl, rfl⟩
  case status => cases he; exact ⟨rfl, rfl⟩

/-- Of the engine's operations the two steps emit; the others keep the wire trace and the cycle. -/
theorem engine_wireFollowsTime {s t : State} {i : Instr} (hi : s.engineOp = some i) (he : exec i s = .next t) : WireFollowsTime s t := by
  rcases State.engineOp_eq_some.1 hi with ⟨-, -, rfl⟩ | ⟨-, -, -, rfl⟩
  · cases hp : s.phase <;> rw [hp] at he <;> simp only [Phase.operation, exec] at he
    case select => cases he; exact .of_kept rfl rfl
    case stepA =>
      obtain ⟨rfl, -⟩ := execStepA_cases he
      exact s.stepEmission_wireFollowsTime _ _
    case stepB =>
      obtain ⟨v, -, rfl, -⟩ := execStepB_cases he
      exact s.stepEmission_wireFollowsTime _ _
    case advance => cases he; split <;> exact .of_kept rfl rfl
    case boundary => cases he; split <;> exact .of_kept rfl rfl
    case ret => cases he; exact .of_kept rfl rfl
  · cases he; exact .of_kept rfl rfl

/-! ## The passing of time -/

theorem State.passTime_wireFollowsTime (s : State) (n : Nat) : WireFollowsTime s (s.passTime n) :=
  s.elapse_wireFollowsTime _

theorem State.passToNext_wireFollowsTime (s : State) : WireFollowsTime s s.passToNext := by
  unfold State.passToNext
  split
  · exact s.elapse_wireFollowsTime s.lead
  · exact s.elapse_wireFollowsTime s.toMark

/-- Settles O48, by the kinds of transition: the engine's, a host command's, the tick source's, and the passing of time; taking an entry
off the agenda keeps both the trace and the cycle. -/
theorem wireTraceFollowsTime : Obligations.WireTraceFollowsTime := by
  intro s t hstep hreset
  rcases step_cases hstep with ⟨i, ⟨hi, -⟩, he | ⟨rest, -, he⟩⟩ | ⟨w, i, rest, -, hdec, -, he⟩ | ⟨w, r, rest, -, -, rfl⟩ | ⟨-, -, rfl⟩ |
    ⟨e, rest, -, -, rfl⟩ | ⟨rest, -, -, rfl⟩ | ⟨n, rest, -, rfl⟩ | ⟨n, rest, hagenda, -⟩
  · exact engine_wireFollowsTime hi he
  · exact engine_wireFollowsTime (s := s.withAgenda rest) hi he
  · obtain ⟨hwire, hnow⟩ := host_keeps_wire_and_now (decode_isHost hdec) he
    exact WireFollowsTime.of_kept hwire hnow
  · exact WireFollowsTime.of_kept rfl rfl
  · exact s.passToNext_wireFollowsTime
  · exact WireFollowsTime.of_kept rfl rfl
  · exact WireFollowsTime.of_kept rfl rfl
  · exact (s.withAgenda rest).passTime_wireFollowsTime n
  · simp [State.resetNext, hagenda] at hreset

end Sys2Proof.Machine
end

section
/-! The invariant of the reachable states is kept by every transition: one lemma for each shared update, then one for the host commands, one
for the engine's operations, and one for the reset (10 R38, R40, R42, R44, R55, 41 R190, 60 R296). -/

namespace Sys2Proof.Machine

/-! ## Reading the invariant -/

theorem capacity_bounds (c : Capacity) : 1 ≤ c.size ∧ c.size ≤ 512 := by cases c <;> decide

theorem levelOf_ne_z (b : Bool) : levelOf b ≠ .z := by cases b <;> decide

theorem State.active_of_busy {s : State} (h : s.busy = true) : s.active = true := by simp [State.active, h]

theorem State.not_active_or_tie_iff {s : State} :
    ¬ (s.active = true ∨ s.tie = true) ↔ s.mode = .disabled ∧ s.busy = false ∧ s.tie = false := by
  simp [State.active, and_assoc]

/-- A line whose level is not Z is an output. -/
theorem State.dirBits_ne_zero_of_pinLevel {s : State} {d : PinDesc} (h : s.pinLevel d ≠ .z) : s.dirBits d.port &&& d.mask ≠ 0 := by
  intro h0
  exact h (if_pos h0)

theorem State.Inv.pindir_of_pindesc {s : State} {d : PinDesc} (h : s.Inv) (hd : s.pindesc = some d) : s.pindir = true := by
  by_contra hdir
  rw [h.pindesc_none (by simpa using hdir)] at hd
  cases hd

theorem State.Inv.line_ne_z {s : State} (h : s.Inv) (hdir : s.pindir = true) : s.line ≠ .z := by
  rw [Ne, h.line_z, hdir]
  decide

/-- The captured line is an output. -/
theorem State.Inv.dirBits_ne_zero {s : State} {d : PinDesc} (h : s.Inv) (hd : s.pindesc = some d) :
    s.dirBits d.port &&& d.mask ≠ 0 := by
  apply State.dirBits_ne_zero_of_pinLevel
  rw [← h.line_pin d hd]
  exact h.line_ne_z (h.pindir_of_pindesc hd)

theorem State.Inv.mask_ne_zero {s : State} {d : PinDesc} (h : s.Inv) (hd : s.pindesc = some d) : d.mask ≠ 0 := by
  obtain ⟨d', hd', hone⟩ := h.pindesc_some (h.pindir_of_pindesc hd)
  rw [hd] at hd'
  cases hd'
  exact mask_ne_zero_of_oneLine hone

theorem State.Inv.pindir_of_busy {s : State} (h : s.Inv) (hb : s.busy = true) : s.pindir = true :=
  (h.active_pin (.inl (State.active_of_busy hb))).1

/-! ## Host commands -/

theorem State.Inv.withAgenda {s : State} (h : s.Inv) (rest : List Event) : (s.withAgenda rest).Inv := { h with }

theorem State.Inv.raiseFault {s : State} (h : s.Inv) (code : FaultCode) : (s.raiseFault code).Inv := { h with }

theorem State.Inv.respond {s : State} (h : s.Inv) (w : Word) : (s.respond w).Inv := { h with }

theorem State.Inv.bufWrite {s : State} (h : s.Inv) {c : Nat} (v : Byte) (hc : 1 ≤ c ∧ c ≤ s.cfg.capacity.size) : (s.bufWrite c v).Inv :=
  { h with
    buf_wf := Memory.write_wf c v h.buf_wf
    buf_channels := fun e he => by
      rcases Memory.write_channels he with he | rfl
      · exact h.buf_channels e he
      · exact hc }

theorem State.Inv.setMaxch {s : State} (h : s.Inv) {m : BitVec 16} (hm : 1 ≤ m.toNat ∧ m.toNat ≤ s.cfg.capacity.size) :
    ({ s with maxch := m } : State).Inv :=
  { h with maxch_pos := hm.1, maxch_le := hm.2 }

/-- A channel number fits the 16-bit registers. -/
theorem toNat_ofNat_of_le_capacity {n : Nat} {c : Capacity} (h : n ≤ c.size) : (BitVec.ofNat 16 n).toNat = n := by
  obtain ⟨-, hsize⟩ := capacity_bounds c
  rw [BitVec.toNat_ofNat, Nat.mod_eq_of_lt (by omega)]

theorem State.clampCount_bounds (s : State) (ch : Int) :
    1 ≤ (s.clampCount ch).toNat ∧ (s.clampCount ch).toNat ≤ s.cfg.capacity.size := by
  obtain ⟨hpos, -⟩ := capacity_bounds s.cfg.capacity
  have hclamp : 1 ≤ clamp ch 1 s.cfg.capacity.size ∧ clamp ch 1 s.cfg.capacity.size ≤ s.cfg.capacity.size := by
    unfold clamp
    split_ifs <;> omega
  unfold State.clampCount
  rw [toNat_ofNat_of_le_capacity (c := s.cfg.capacity) (by omega)]
  omega

theorem State.Inv.write {s t : State} (h : s.Inv) {ch val : Int} (he : execWrite ch val s = .next t) : t.Inv := by
  cases he
  split
  · next hch =>
    obtain ⟨hpos, hle⟩ := State.channelExists_iff.1 hch
    have hc : 1 ≤ ch.toNat ∧ ch.toNat ≤ s.cfg.capacity.size := by omega
    refine (h.bufWrite _ hc).setMaxch ?_
    split
    · rwa [toNat_ofNat_of_le_capacity (c := s.cfg.capacity) hc.2]
    · exact ⟨h.maxch_pos, h.maxch_le⟩
  · exact h

theorem State.Inv.setpin {s t : State} (h : s.Inv) {pin : PinId} (he : execSetpin pin s = .next t) : t.Inv := by
  cases he
  split
  · exact h.raiseFault _
  next hidle =>
    split
    · next hpin =>
      simp only [not_or, not_not, Bool.not_eq_true] at hidle
      obtain ⟨hm, hb⟩ := hidle
      have ht : s.tie = false := by simpa [hm] using h.tie_iff hb
      exact { h with
        pinsel_valid := fun p hp => by cases hp; exact hpin
        active_pin := fun hact => absurd hact (State.not_active_or_tie_iff.2 ⟨hm, hb, ht⟩) }
    · exact h.raiseFault _

theorem State.Inv.stop {s : State} (h : s.Inv) : ({ s with tie := false, mode := .disabled } : State).Inv :=
  { h with
    tie_iff := fun _ => by simp
    active_pin := fun hact => h.active_pin (.inl (State.active_of_busy (by simpa [State.active] using hact))) }

/-! ### The beginning of a transmission -/

/-- Where `beginTransmission` leads: LINE, the output registers and the number of draws depend on whether the line is driven already. -/
def State.begun (s : State) (m : Mode) (d : PinDesc) (level : Level) (out : List (Nat × Nat)) (draws : Nat) : State :=
  { s with mode := m, cursor := 0, pindesc := some d, pindir := true, portDir := dirWith s.portDir (some d), tie := true,
           line := level, portOut := out, draws := draws }

/-- The line keeps its level if DMXTX drives it already, and is driven to a free level if not (42 R235). -/
theorem State.beginTransmission_cases {s : State} (m : Mode) {pin : PinId} {d : PinDesc} (hd : s.pinMap pin = some d) :
    (s.pindir = true ∧ s.pindesc = some d ∧ s.beginTransmission m pin = s.begun m d s.line s.portOut s.draws) ∨
    ∃ l, l ≠ .z ∧ s.beginTransmission m pin =
      s.begun m d l (storeSet 0 s.portOut d.port (driveBits (s.portBits d.port) d.mask l)) (s.draws + 1) := by
  unfold State.beginTransmission
  simp only [hd]
  split
  · exact .inr ⟨_, levelOf_ne_z _, rfl⟩
  · next hkept =>
    simp only [not_or, not_not, Bool.not_eq_false] at hkept
    exact .inl ⟨hkept.1, hkept.2, rfl⟩

/-- A line that begins a transmission is an output from then on. -/
theorem State.begun_dirBits_ne_zero {s : State} (m : Mode) {d : PinDesc} (l : Level) (out : List (Nat × Nat)) (k : Nat)
    (hwf : storeWf 0 s.portDir = true) (hmask : d.mask ≠ 0) : (s.begun m d l out k).dirBits d.port &&& d.mask ≠ 0 := by
  have hdir : (s.begun m d l out k).dirBits d.port = driveBits (s.dirBits d.port) d.mask .high := storeGet_storeSet_same _ _ hwf
  rw [hdir]
  exact driveBits_high_and hmask

/-- Cursor 0 is what every phase but STEP_B promises, or more. -/
theorem State.phaseOk_begun {s : State} (m : Mode) (d : PinDesc) (l : Level) (out : List (Nat × Nat)) (k : Nat) (h : s.phaseOk)
    (hphase : s.phase ≠ .stepB) : (s.begun m d l out k).phaseOk := by
  unfold State.phaseOk at h ⊢
  simp only [State.begun]
  cases hp : s.phase <;> simp_all

theorem State.Inv.begun {s : State} (h : s.Inv) {m : Mode} {pin : PinId} {d : PinDesc} {l : Level} {out : List (Nat × Nat)} (k : Nat)
    (hm : m ≠ .disabled) (hpin : s.pinsel = some pin) (hd : s.pinMap pin = some d) (hone : s.oneLine d = true)
    (hphase : s.busy = true → s.phase ≠ .stepB) (hl : l ≠ .z) (hout : storeWf 0 out = true)
    (hlevel : l = (s.begun m d l out k).pinLevel d) : (s.begun m d l out k).Inv :=
  { h with
    cursor_le := Nat.zero_le _
    tie_iff := fun _ => ⟨fun _ => hm, fun _ => rfl⟩
    active_pin := fun _ => ⟨rfl, pin, hpin, hd.symm⟩
    pindesc_some := fun _ => ⟨d, rfl, hone⟩
    pindesc_none := fun hdir => by cases hdir
    line_z := ⟨fun hz => absurd hz hl, fun hdir => by cases hdir⟩
    line_pin := fun e he => by cases he; exact hlevel
    portOut_wf := hout
    portDir_wf := storeSet_wf _ _ h.portDir_wf
    phase_ok := fun hb => State.phaseOk_begun _ _ _ _ _ (h.phase_ok hb) (hphase hb) }

theorem State.Inv.beginTransmission {s : State} (h : s.Inv) {m : Mode} {pin : PinId} (hm : m ≠ .disabled) (hpin : s.pinsel = some pin)
    (hphase : s.busy = true → s.phase ≠ .stepB) : (s.beginTransmission m pin).Inv := by
  obtain ⟨d, hd, hone⟩ := State.pinValid_iff.1 (h.pinsel_valid pin hpin)
  have hmask := mask_ne_zero_of_oneLine hone
  have hdir := fun l out k => State.begun_dirBits_ne_zero (s := s) m l out k h.portDir_wf hmask
  rcases State.beginTransmission_cases m hd with ⟨hdriven, hdesc, heq⟩ | ⟨l, hl, heq⟩ <;> rw [heq]
  · have hlevel : s.line = (s.begun m d s.line s.portOut s.draws).pinLevel d := by
      rw [State.pinLevel, if_neg (hdir _ _ _)]
      exact (h.line_pin d hdesc).trans (if_neg (h.dirBits_ne_zero hdesc))
    exact h.begun _ hm hpin hd hone hphase (h.line_ne_z hdriven) h.portOut_wf hlevel
  · have hlevel := State.setLine_pinLevel (s := s.begun m d s.line s.portOut (s.draws + 1)) h.portOut_wf rfl hmask (hdir _ _ _) hl
    exact h.begun _ hm hpin hd hone hphase hl (storeSet_wf _ _ h.portOut_wf) hlevel.symm

/-- START and STARTSINGLE wait while STEP_B is due (log 4). -/
theorem State.phase_ne_stepB_of_not_defers {s : State} {i : Instr} (hi : i = .start ∨ i = .startsingle) (h : s.defers i = false)
    (hb : s.busy = true) : s.phase ≠ .stepB := by
  intro hp
  rcases hi with rfl | rfl <;> simp [State.defers, hb, hp] at h

/-- A host command that need not wait keeps the invariant. -/
theorem host_keeps_inv {s t : State} {i : Instr} (h : s.Inv) (hi : i.isHost = true) (hd : s.defers i = false) (he : exec i s = .next t) :
    t.Inv := by
  cases i <;> simp only [Instr.isHost, Bool.false_eq_true] at hi <;> simp only [exec] at he
  case write ch val => exact h.write he
  case setmax ch => cases he; exact h.setMaxch (s.clampCount_bounds ch)
  case setpin pin => exact h.setpin he
  case start =>
    unfold execStart at he
    split at he <;> cases he
    · exact h.raiseFault _
    · next hpin => exact h.beginTransmission (by decide) hpin (State.phase_ne_stepB_of_not_defers (.inl rfl) hd)
  case startsingle =>
    unfold execStartsingle at he
    split at he <;> cases he
    · exact h.raiseFault _
    · next hpin => exact h.beginTransmission (by decide) hpin (State.phase_ne_stepB_of_not_defers (.inr rfl) hd)
  case stop => cases he; exact h.stop
  case read ch =>
    cases he
    split
    · exact h.respond _
    · exact h.raiseFault _
  case readmax => cases he; exact h.respond _
  case status => cases he; exact h.respond _

/-! ## The passing of time -/

theorem State.Inv.elapse {s : State} (h : s.Inv) (n : Nat) : (s.elapse n).Inv :=
  { h with
    toMark_le := toMarkAfter_le h.toMark_le
    mark_grid := by
      obtain ⟨k, hk⟩ := h.mark_grid
      obtain ⟨j, hj⟩ := toMarkAfter_grid (toMark := s.toMark) (n := n) h.cfg_valid.tickCycles_pos
      refine ⟨k + j, ?_⟩
      simp only [State.elapse_now, State.elapse_toMark, State.elapse_tickPhase, State.elapse_cfg, Nat.add_mul]
      omega }

/-- A mark is taken on its cycle, and the next one is a whole period away (60 R296). -/
theorem State.Inv.takeMark {s : State} (h : s.Inv) (hm : s.toMark = 0) : s.takeMark.Inv :=
  { h with
    toMark_le := Nat.le_refl _
    mark_grid := by
      obtain ⟨k, hk⟩ := h.mark_grid
      refine ⟨k + 1, ?_⟩
      simp only [State.takeMark_now, State.takeMark_toMark, State.takeMark_tickPhase, State.takeMark_cfg, Nat.add_mul]
      omega }

/-- Engine time may come nearer. -/
theorem State.Inv.setLead {s : State} (h : s.Inv) {n : Nat} (hn : n ≤ s.lead) : ({ s with lead := n } : State).Inv :=
  { h with
    idle_phase := fun hb => by
      obtain ⟨hphase, hlead⟩ := h.idle_phase hb
      exact ⟨hphase, Nat.le_zero.1 (hlead ▸ hn)⟩
    lead_select := fun hpos => h.lead_select (Nat.lt_of_lt_of_le hpos hn)
    lead_le := Nat.le_trans hn h.lead_le }

theorem State.Inv.passTime {s : State} (h : s.Inv) (n : Nat) : (s.passTime n).Inv :=
  (h.elapse _).setLead (Nat.sub_le _ _)

theorem State.Inv.passToNext {s : State} (h : s.Inv) : s.passToNext.Inv := by
  unfold State.passToNext
  split
  · exact (h.elapse _).setLead (Nat.zero_le _)
  · exact (h.elapse _).takeMark (by simp [toMarkAfter])

/-! ## Emissions -/

theorem State.Inv.setLine {s : State} (h : s.Inv) {l : Level} (hl : l ≠ .z) (hdir : s.pindir = true) : (s.setLine l).Inv :=
  { h with
    line_z := by simp [hl, hdir]
    line_pin := fun d hd =>
      (State.setLine_pinLevel h.portOut_wf hd (h.mask_ne_zero hd) (h.dirBits_ne_zero hd) hl).symm
    portOut_wf := State.setLine_portOut_wf l h.portOut_wf }

theorem State.Inv.emitLevels {s : State} (h : s.Inv) {ls : List Level} (hls : Level.z ∉ ls) (hdir : s.pindir = true) :
    (s.emitLevels ls).Inv := by
  induction ls generalizing s with
  | nil => exact h
  | cons l ls ih =>
    simp only [List.mem_cons, not_or] at hls
    exact ih (s := s.emitSlot l) ((h.setLine (Ne.symm hls.1) hdir).elapse _) hls.2 hdir

theorem State.Inv.setGie {s : State} (h : s.Inv) (b : Bool) : ({ s with gie := b } : State).Inv := { h with }

theorem State.Inv.critical_emit {s : State} (h : s.Inv) {ls : List Level} (hls : Level.z ∉ ls) (hdir : s.pindir = true) :
    (s.critical (State.emitLevels · ls)).Inv :=
  ((h.setGie false).emitLevels hls hdir).setGie s.gie

/-- The emission of a step, with the budget charged before it and ADVANCE selected after it. -/
theorem State.Inv.stepEmission {s : State} (h : s.Inv) (hb : s.busy = true) (hlead : s.lead = 0) {left : Nat} (hleft : left ≤ s.rem)
    {ls : List Level} (hls : Level.z ∉ ls) :
    ({ ({ s with rem := left } : State).critical (State.emitLevels · ls) with phase := .advance } : State).Inv := by
  have charged : ({ s with rem := left, phase := .advance } : State).Inv :=
    { h with
      rem_le := Nat.le_trans hleft h.rem_le
      phase_ok := fun _ => trivial
      idle_phase := fun hb' => absurd (hb.symm.trans hb') (by decide)
      lead_select := fun hpos => absurd (hlead ▸ hpos) (Nat.lt_irrefl 0) }
  rw [← State.critical_emit_phase]
  exact charged.critical_emit hls (h.pindir_of_busy hb)

/-! ## The engine's other operations -/

theorem drawLatency_le (cfg : Config) (k : Nat) : drawLatency cfg k ≤ cfg.lMax := by
  unfold drawLatency
  split
  · exact Nat.zero_le _
  · exact Nat.lt_succ_iff.1 (Nat.mod_lt _ (Nat.succ_pos _))

theorem State.Inv.enterTick {s : State} (h : s.Inv) (ht : s.tie = true) : s.enterTick.Inv :=
  { h with
    tie_iff := fun hb => by cases hb
    active_pin := fun _ => h.active_pin (.inr ht)
    rem_le := Nat.le_refl _
    phase_ok := fun _ => trivial
    idle_phase := fun hb => by cases hb
    lead_select := fun _ => rfl
    lead_le := drawLatency_le _ _ }

/-- Inside a tick the engine may go on at any cursor of the buffer, in a phase whose promise holds there. -/
theorem State.Inv.goOn {s : State} (h : s.Inv) (hb : s.busy = true) (hlead : s.lead = 0) {c : BitVec 16} {p : Phase}
    (hc : c.toNat ≤ s.cfg.capacity.size) (hp : ({ s with cursor := c, phase := p } : State).phaseOk) :
    ({ s with cursor := c, phase := p } : State).Inv :=
  { h with
    cursor_le := hc
    phase_ok := fun _ => hp
    idle_phase := fun hb' => absurd (hb.symm.trans hb') (by decide)
    lead_select := fun hpos => absurd (hlead ▸ hpos) (Nat.lt_irrefl 0) }

/-- SELECT checks what the phase it chooses promises (41 R182). -/
theorem State.Inv.select {s t : State} (h : s.Inv) (hb : s.busy = true) (hlead : s.lead = 0) (he : execSelect s = .next t) : t.Inv := by
  cases he
  refine h.goOn hb hlead h.cursor_le ?_
  split_ifs with hc ha hb
  · exact ⟨hc, ha⟩
  · trivial
  · exact ⟨hc, hb⟩
  · trivial

/-- ADVANCE leaves the cursor at most MAXCH, and at 0 before BOUNDARY (41 R186). -/
theorem State.Inv.advance {s t : State} (h : s.Inv) (hb : s.busy = true) (hlead : s.lead = 0) (he : execAdvance s = .next t) : t.Inv := by
  cases he
  split
  · exact h.goOn hb hlead (Nat.zero_le _) rfl
  · next hcount =>
    have hle : s.cursor.toNat + 1 ≤ s.cfg.capacity.size := Nat.le_trans (Nat.not_lt.1 hcount) h.maxch_le
    refine h.goOn hb hlead ?_ trivial
    rwa [toNat_ofNat_of_le_capacity hle]

theorem State.Inv.endTransmission {s : State} (h : s.Inv) (hlead : s.lead = 0) : s.endTransmission.Inv :=
  { h with
    tie_iff := fun _ => by simp
    active_pin := fun hact => absurd hact (State.not_active_or_tie_iff.2 ⟨rfl, rfl, rfl⟩)
    phase_ok := fun hb => by cases hb
    idle_phase := fun _ => ⟨rfl, hlead⟩
    lead_select := fun _ => rfl }

theorem State.Inv.leaveTick {s : State} (h : s.Inv) (hb : s.busy = true) (hlead : s.lead = 0) : s.leaveTick.Inv :=
  { h with
    tie_iff := fun _ => by simp
    active_pin := fun _ => h.active_pin (.inl (State.active_of_busy hb))
    phase_ok := fun hb' => by cases hb'
    idle_phase := fun _ => ⟨rfl, hlead⟩
    lead_select := fun _ => rfl }

/-- The engine's operation, whichever is due, keeps the invariant. -/
theorem engine_keeps_inv {s t : State} {i : Instr} (h : s.Inv) (hi : s.engineOp = some i) (he : exec i s = .next t) : t.Inv := by
  rcases State.engineOp_eq_some.1 hi with ⟨hb, hlead, rfl⟩ | ⟨-, ht, -, rfl⟩
  · cases hp : s.phase <;> rw [hp] at he <;> simp only [Phase.operation, exec] at he
    case select => exact h.select hb hlead he
    case stepA =>
      obtain ⟨rfl, -⟩ := execStepA_cases he
      exact h.stepEmission hb hlead (Nat.sub_le _ _) z_not_mem_stepALevels
    case stepB =>
      obtain ⟨v, -, rfl, -⟩ := execStepB_cases he
      exact h.stepEmission hb hlead (Nat.sub_le _ _) (z_not_mem_frame v)
    case advance => exact h.advance hb hlead he
    case boundary =>
      cases he
      split
      · exact h.goOn hb hlead h.cursor_le trivial
      · exact h.endTransmission hlead
    case ret => cases he; exact h.leaveTick hb hlead
  · cases he
    exact h.enterTick ht

/-! ## Reset -/

/-- The invariant holds after reset, for every allowed set of parameters. -/
theorem State.resetWith_inv {cfg : Config} (draws : Nat) (hv : cfg.Valid) : (State.resetWith cfg draws).Inv := by
  have hphase : cfg.drawPhase draws < cfg.tickCycles := Nat.mod_lt _ hv.tickCycles_pos
  have hmaxch : (State.resetWith cfg draws).maxch.toNat = cfg.resetMaxChannel := toNat_ofNat_of_le_capacity hv.resetMaxChannel_le
  constructor
  case cfg_valid => exact hv
  case maxch_pos => exact hmaxch.symm ▸ hv.resetMaxChannel_pos
  case maxch_le => exact hmaxch.symm ▸ hv.resetMaxChannel_le
  case tickPhase_lt => exact hphase
  case toMark_le => exact Nat.le_of_lt hphase
  case mark_grid => exact ⟨0, by simp [State.resetWith]⟩
  all_goals simp [State.resetWith, State.active, Memory.wf_empty, storeWf]

theorem State.Inv.resetNow {s : State} (h : s.Inv) (after : Nat) : (s.resetNow after).Inv :=
  { State.resetWith_inv s.draws h.cfg_valid with }

/-- Settles O55, by the kinds of transition; taking an entry off the agenda keeps the invariant. -/
theorem stepKeepsTheInvariant : Obligations.StepKeepsTheInvariant := by
  intro s t hinv hstep
  have htaken := hinv.withAgenda
  rcases step_cases hstep with ⟨i, ⟨hi, -⟩, he | ⟨rest, -, he⟩⟩ | ⟨w, i, rest, -, hdec, hdefers, he⟩ | ⟨w, r, rest, -, -, rfl⟩ |
    ⟨-, -, rfl⟩ | ⟨e, rest, -, -, rfl⟩ | ⟨rest, -, hmark, rfl⟩ | ⟨n, rest, -, rfl⟩ | ⟨n, rest, -, rfl⟩
  · exact engine_keeps_inv hinv hi he
  · exact engine_keeps_inv (htaken rest) hi he
  · exact host_keeps_inv (htaken rest) (decode_isHost hdec) hdefers he
  · exact (htaken rest).raiseFault _
  · exact hinv.passToNext
  · exact htaken rest
  · exact (htaken rest).takeMark hmark
  · exact (htaken rest).passTime n
  · exact (htaken rest).resetNow n

end Sys2Proof.Machine
end

section
/-! Who writes what over all transitions: what the host commands keep of the tick and the platform, what a transition of neither agent keeps,
and the kinds of transition that the whole-machine rules are read off from (10 R33 to R50). -/

namespace Sys2Proof.Machine

/-! ## Host commands -/

/-- What every host command leaves alone: the configuration, the tick in progress, the tick source, GIE and the agenda. -/
structure HostKeeps (s t : State) : Prop where
  cfg       : t.cfg = s.cfg
  busy      : t.busy = s.busy
  rem       : t.rem = s.rem
  tickPend  : t.tickPend = s.tickPend
  phase     : t.phase = s.phase
  lead      : t.lead = s.lead
  tickPhase : t.tickPhase = s.tickPhase
  toMark    : t.toMark = s.toMark
  gie       : t.gie = s.gie
  agenda    : t.agenda = s.agenda

theorem HostKeeps.refl (s : State) : HostKeeps s s := by constructor <;> rfl

theorem State.raiseFault_hostKeeps (s : State) (code : FaultCode) : HostKeeps s (s.raiseFault code) := by constructor <;> rfl

theorem State.respond_hostKeeps (s : State) (w : Word) : HostKeeps s (s.respond w) := by constructor <;> rfl

theorem State.beginTransmission_hostKeeps (s : State) (m : Mode) (pin : PinId) : HostKeeps s (s.beginTransmission m pin) := by
  unfold State.beginTransmission
  simp only
  split <;> constructor <;> rfl

theorem State.beginTransmission_buf (s : State) (m : Mode) (pin : PinId) : (s.beginTransmission m pin).buf = s.buf := by
  unfold State.beginTransmission
  simp only
  split <;> rfl

/-- A host command keeps its tick, time source and platform frame. -/
theorem host_keeps {s t : State} {i : Instr} (hi : i.isHost = true) (he : exec i s = .next t) : HostKeeps s t := by
  cases i <;> simp only [Instr.isHost, Bool.false_eq_true] at hi <;> simp only [exec] at he
  case write ch val =>
    cases he
    split
    · constructor <;> rfl
    · exact .refl s
  case setmax ch => cases he; constructor <;> rfl
  case setpin pin =>
    cases he
    split_ifs
    · exact s.raiseFault_hostKeeps _
    · constructor <;> rfl
    · exact s.raiseFault_hostKeeps _
  case start =>
    unfold execStart at he
    split at he <;> cases he
    · exact s.raiseFault_hostKeeps _
    · exact s.beginTransmission_hostKeeps _ _
  case startsingle =>
    unfold execStartsingle at he
    split at he <;> cases he
    · exact s.raiseFault_hostKeeps _
    · exact s.beginTransmission_hostKeeps _ _
  case stop => cases he; constructor <;> rfl
  case read ch =>
    cases he
    split
    · exact s.respond_hostKeeps _
    · exact s.raiseFault_hostKeeps _
  case readmax => cases he; exact s.respond_hostKeeps _
  case status => cases he; exact s.respond_hostKeeps _

/-- WRITE changes no channel but the one it names. -/
theorem execWrite_bufRead_other {s t : State} {ch val : Int} {c : Nat} (hne : ch ≠ c) (he : execWrite ch val s = .next t) :
    t.bufRead c = s.bufRead c := by
  cases he
  split
  · next hch =>
    have hc : c ≠ ch.toNat := by
      have := (State.channelExists_iff.1 hch).1
      omega
    exact if_congr Iff.rfl (congrArg some (Memory.read_write_other _ hc)) rfl
  · rfl

/-- No host command but WRITE changes the buffer. -/
theorem host_keeps_buf {s t : State} {i : Instr} (hi : i.isHost = true) (hwrite : ∀ ch val, i ≠ .write ch val)
    (he : exec i s = .next t) : t.buf = s.buf := by
  cases i <;> simp only [Instr.isHost, Bool.false_eq_true] at hi <;> simp only [exec] at he
  case write ch val => exact absurd rfl (hwrite ch val)
  case setmax ch => cases he; rfl
  case setpin pin => cases he; split_ifs <;> rfl
  case start => unfold execStart at he; split at he <;> cases he <;> simp [State.beginTransmission_buf]
  case startsingle => unfold execStartsingle at he; split at he <;> cases he <;> simp [State.beginTransmission_buf]
  case stop => cases he; rfl
  case read ch => cases he; split <;> rfl
  case readmax => cases he; rfl
  case status => cases he; rfl

/-- A channel's byte changes on a host command only if it is a WRITE of that channel (10 R34). -/
theorem host_keeps_bufRead {s t : State} {i : Instr} {c : Nat} (hi : i.isHost = true) (hwrite : ∀ val, i ≠ .write c val)
    (he : exec i s = .next t) : t.bufRead c = s.bufRead c := by
  by_cases h : ∃ ch val, i = .write ch val
  · obtain ⟨ch, val, rfl⟩ := h
    exact execWrite_bufRead_other (fun hch => hwrite val (by rw [hch])) he
  · have hbuf := host_keeps_buf hi (fun ch val hw => h ⟨ch, val, hw⟩) he
    exact State.bufRead_congr hbuf (host_keeps hi he).cfg c

/-! ## Transitions that run no operation -/

/-- What a transition that runs no operation and is no reset leaves alone; it may record a fault, set TICK_PEND and let time pass. -/
structure QuietFrame (s t : State) : Prop where
  cfg      : t.cfg = s.cfg
  buf      : t.buf = s.buf
  maxch    : t.maxch = s.maxch
  mode     : t.mode = s.mode
  cursor   : t.cursor = s.cursor
  tie      : t.tie = s.tie
  pinsel   : t.pinsel = s.pinsel
  pindesc  : t.pindesc = s.pindesc
  pindir   : t.pindir = s.pindir
  line     : t.line = s.line
  busy     : t.busy = s.busy
  rem      : t.rem = s.rem
  phase    : t.phase = s.phase
  gie      : t.gie = s.gie
  faults   : ∀ c, s.faults.has c = true → t.faults.has c = true
  tickPend : s.tickPend = true → t.tickPend = true

theorem pendAfter_of_pending (toMark n : Nat) : pendAfter toMark n true = true := rfl

theorem State.withAgenda_quiet (s : State) (rest : List Event) : QuietFrame s (s.withAgenda rest) := by
  constructor
  case faults => exact fun _ h => h
  case tickPend => exact id
  all_goals rfl

theorem State.raiseFault_quiet (s : State) (code : FaultCode) : QuietFrame s (s.raiseFault code) := by
  constructor
  case faults => exact fun _ h => FaultSet.has_insert code h
  case tickPend => exact id
  all_goals rfl

theorem State.takeMark_quiet (s : State) : QuietFrame s s.takeMark := by
  constructor
  case faults => exact fun _ h => h
  case tickPend => exact fun _ => rfl
  all_goals rfl

/-- Time passes, and engine time comes nearer. -/
theorem State.elapse_quiet (s : State) (n lead : Nat) : QuietFrame s { s.elapse n with lead := lead } := by
  constructor
  case faults => exact fun _ h => h
  case tickPend => intro h; simp [h, pendAfter_of_pending]
  all_goals rfl

theorem QuietFrame.trans {s t u : State} (h : QuietFrame s t) (k : QuietFrame t u) : QuietFrame s u := by
  constructor
  case faults => exact fun c hc => k.faults c (h.faults c hc)
  case tickPend => exact fun hp => k.tickPend (h.tickPend hp)
  exacts [k.cfg.trans h.cfg, k.buf.trans h.buf, k.maxch.trans h.maxch, k.mode.trans h.mode, k.cursor.trans h.cursor,
    k.tie.trans h.tie, k.pinsel.trans h.pinsel, k.pindesc.trans h.pindesc, k.pindir.trans h.pindir, k.line.trans h.line,
    k.busy.trans h.busy, k.rem.trans h.rem, k.phase.trans h.phase, k.gie.trans h.gie]

theorem State.passToNext_quiet (s : State) : QuietFrame s s.passToNext := by
  unfold State.passToNext
  split
  · exact s.elapse_quiet _ _
  · exact (s.elapse_quiet s.toMark s.lead).trans (State.takeMark_quiet _)

/-! ## The kinds of transition -/

/-- What a transition from `s` to `t` can be: an operation of the engine, a host command, one that runs no operation, or the reset. -/
inductive StepKind (s t : State) : Prop where
  | engine (i : Instr) (rest : List Event) (next : s.operationNext i) (frame : EngineFrame i (s.withAgenda rest) t)
  | host (i : Instr) (rest : List Event) (next : s.commandNext i) (isHost : i.isHost = true)
      (run : exec i (s.withAgenda rest) = .next t)
  | quiet (frame : QuietFrame s t)
  | reset (next : s.resetNext = true) (after : Nat) (rest : List Event) (eq : t = (s.withAgenda rest).resetNow after)

theorem step_kind {s t : State} (h : step s = .next t) : StepKind s t := by
  rcases step_cases h with ⟨i, hop, he | ⟨rest, -, he⟩⟩ | ⟨w, i, rest, ha, hdec, hdefers, he⟩ | ⟨w, r, rest, -, -, rfl⟩ |
    ⟨-, -, rfl⟩ | ⟨e, rest, -, -, rfl⟩ | ⟨rest, -, -, rfl⟩ | ⟨n, rest, -, rfl⟩ | ⟨n, rest, ha, rfl⟩
  · exact .engine i s.agenda hop (engine_frame hop.1 he)
  · exact .engine i rest hop (engine_frame (s := s.withAgenda rest) hop.1 he)
  · exact .host i rest ⟨w, rest, ha, hdec, hdefers⟩ (decode_isHost hdec) he
  · exact .quiet ((s.withAgenda_quiet rest).trans (State.raiseFault_quiet _ _))
  · exact .quiet s.passToNext_quiet
  · exact .quiet (s.withAgenda_quiet rest)
  · exact .quiet ((s.withAgenda_quiet rest).trans (State.takeMark_quiet _))
  · exact .quiet ((s.withAgenda_quiet rest).trans (State.elapse_quiet _ _ _))
  · exact .reset (by simp [State.resetNext, ha]) n rest rfl

/-! ## Whole-machine rules -/

theorem State.startNext_of_commandNext {s : State} {i : Instr} (next : s.commandNext i) (hi : i = .start ∨ i = .startsingle) :
    s.startNext := by
  rcases hi with rfl | rfl
  · exact .inl next
  · exact .inr next

/-- The host commands that write MODE are those that write TIE. -/
theorem State.start_or_stop_of_commandNext {s : State} {i : Instr} (next : s.commandNext i)
    (hi : i = .start ∨ i = .startsingle ∨ i = .stop) : s.startNext ∨ s.commandNext .stop := by
  rcases hi with rfl | rfl | rfl
  · exact .inl (.inl next)
  · exact .inl (.inr next)
  · exact .inr next

/-- Settles O10, by the kinds of transition: of the host commands only a WRITE of the channel writes its byte. -/
theorem channelChangesOnlyByWrite : Obligations.ChannelChangesOnlyByWrite := by
  intro s t c hstep hreset hwrite
  cases step_kind hstep with
  | engine i rest next F => exact State.bufRead_congr F.buf F.cfg c
  | host i rest next hi he =>
    refine host_keeps_bufRead (s := s.withAgenda rest) hi ?_ he
    rintro val rfl
    exact hwrite val next
  | quiet F => exact State.bufRead_congr F.buf F.cfg c
  | reset next => simp [hreset] at next

/-- Settles O51, by the kinds of transition; the platform's reset keeps the configuration too (70 R330). -/
theorem configAndInterruptEnableAreKept : Obligations.ConfigAndInterruptEnableAreKept := by
  intro s t hstep
  cases step_kind hstep with
  | engine i rest next F => exact ⟨F.cfg, fun _ => F.gie⟩
  | host i rest next hi he =>
    have K := host_keeps hi he
    exact ⟨K.cfg, fun _ => K.gie⟩
  | quiet F => exact ⟨F.cfg, fun _ => F.gie⟩
  | reset next after rest eq => exact ⟨by rw [eq]; rfl, fun hreset => by simp [hreset] at next⟩

/-- Settles O52, by the kinds of transition: the engine keeps FAULTS, and the others only add to it. -/
theorem faultsAreSticky : Obligations.FaultsAreSticky := by
  intro s t code hstep hreset hfault
  cases step_kind hstep with
  | engine i rest next F => rw [F.faults]; exact hfault
  | host i rest next hi he => exact (host_frame hi he).faults code hfault
  | quiet F => exact F.faults code hfault
  | reset next => simp [hreset] at next

/-- Settles O50, by the kinds of transition: the frames of the engine and of the host commands name the operation that is taken. -/
theorem registersChangeOnlyByTheirWriters : Obligations.RegistersChangeOnlyByTheirWriters := by
  intro s t hstep hreset
  cases step_kind hstep with
  | engine i rest next F =>
    refine ⟨fun h => ?_, fun h => absurd F.maxch h, fun h => absurd F.pinsel h, fun h => ?_, fun h => ?_,
      fun h => absurd ⟨F.pindesc, F.pindir⟩ (not_and_or.2 h)⟩
    · obtain rfl := F.cursor.resolve_left h
      exact .inr next
    · obtain rfl := F.mode.resolve_left h
      exact .inr (.inr next)
    · obtain rfl | rfl | rfl := F.tie.resolve_left h
      · exact .inr (.inr (.inl next))
      · exact .inr (.inr (.inr (.inl next)))
      · exact .inr (.inr (.inr (.inr next)))
  | host i rest next hi he =>
    have F := host_frame hi he
    refine ⟨fun h => .inl ?_, fun h => ?_, fun h => ?_, fun h => ?_, fun h => ?_, fun h => ?_⟩
    · exact State.startNext_of_commandNext next (F.line.resolve_left fun ⟨hcursor, _⟩ => h hcursor)
    · obtain ⟨ch, val, rfl⟩ | ⟨ch, rfl⟩ := F.maxch.resolve_left h
      · exact .inl ⟨ch, val, next⟩
      · exact .inr ⟨ch, next⟩
    · obtain ⟨pin, rfl⟩ := F.pinsel.resolve_left h
      exact ⟨pin, next⟩
    · exact (State.start_or_stop_of_commandNext next (F.mode.resolve_left h)).imp_right .inl
    · exact (State.start_or_stop_of_commandNext next (F.tie.resolve_left h)).imp_right .inl
    · exact State.startNext_of_commandNext next (F.line.resolve_left fun ⟨_, hdesc, hdir, _⟩ => not_and_or.2 h ⟨hdesc, hdir⟩)
  | quiet F =>
    exact ⟨fun h => absurd F.cursor h, fun h => absurd F.maxch h, fun h => absurd F.pinsel h, fun h => absurd F.mode h,
      fun h => absurd F.tie h, fun h => absurd ⟨F.pindesc, F.pindir⟩ (not_and_or.2 h)⟩
  | reset next => simp [hreset] at next

/-- Settles O58, by the kinds of transition: the host commands keep the state of the tick, and only the two starts among them drive the
line. -/
theorem tickStateChangesOnlyByItsWriters : Obligations.TickStateChangesOnlyByItsWriters := by
  intro s t hstep hreset
  cases step_kind hstep with
  | engine i rest next F =>
    refine ⟨fun h => ?_, fun h => ?_, fun h => ?_, fun _ => ⟨i, next⟩, fun hpend hclear => ?_⟩
    · obtain ⟨rfl | rfl, -⟩ := F.line.resolve_left h
      · exact .inr (.inl next)
      · exact .inr (.inr next)
    · obtain ⟨rfl, -⟩ | rfl | ⟨rfl, hmode⟩ := F.busy.resolve_left h
      · exact .inl next
      · exact .inr (.inl next)
      · exact .inr (.inr ⟨next, hmode⟩)
    · obtain rfl | rfl | rfl := F.rem.resolve_left h
      · exact .inl next
      · exact .inr (.inl next)
      · exact .inr (.inr next)
    · obtain rfl := (F.tickPend hpend).resolve_left (by simp [hclear])
      exact next
  | host i rest next hi he =>
    have F := host_frame hi he
    have K := host_keeps hi he
    refine ⟨fun h => .inl ?_, fun h => absurd K.busy h, fun h => absurd K.rem h, fun h => absurd K.phase h, fun hpend hclear => ?_⟩
    · exact State.startNext_of_commandNext next (F.line.resolve_left fun ⟨_, _, _, hline, _⟩ => h hline)
    · exact absurd (K.tickPend.trans hpend) (by simp [hclear])
  | quiet F =>
    exact ⟨fun h => absurd F.line h, fun h => absurd F.busy h, fun h => absurd F.rem h, fun h => absurd F.phase h,
      fun hpend hclear => absurd (F.tickPend hpend) (by simp [hclear])⟩
  | reset next => simp [hreset] at next

end Sys2Proof.Machine
end

section
/-! The command port: where a host command waits and where it is taken at once (20 R91, R92), and what it leaves alone. -/

namespace Sys2Proof.Machine

/-- Only the two starts wait, and only inside a tick (log 4). -/
theorem State.defers_iff {s : State} {i : Instr} :
    s.defers i = true ↔
      s.busy = true ∧ ((i = .start ∨ i = .startsingle) ∧ (s.phase = .stepB ∨ s.phase = .advance) ∨ i = .startsingle ∧ s.phase = .boundary) := by
  unfold State.defers
  cases i <;> simp [or_assoc]

theorem step_of_taken {s : State} {w : Word} {rest : List Event} {i : Instr} (ha : s.agenda = .command w :: rest)
    (hdec : decode w = .ok i) (hd : s.defers i = false) : step s = exec i (s.withAgenda rest) := by
  rw [step_of_entry ha]
  simp [takeEntry, takeCommand, hdec, hd, State.withAgenda]

theorem step_of_deferred {s : State} {w : Word} {rest : List Event} {i : Instr} (ha : s.agenda = .command w :: rest)
    (hdec : decode w = .ok i) (hd : s.defers i = true) : step s = autonomous s := by
  rw [step_of_entry ha]
  simp [takeEntry, takeCommand, hdec, hd]

theorem autonomous_of_due {s : State} {i : Instr} (hi : s.engineOp = some i) : autonomous s = exec i s := by
  simp only [autonomous, hi]

/-- Settles O17: outside a tick, and for every command but the two starts, nothing makes the command wait. -/
theorem stepRunsTheDecodedCommand : Obligations.StepRunsTheDecodedCommand := by
  intro s w rest i ha hdec
  refine ⟨step_of_taken ha hdec, fun hb => ?_, fun hstart hsingle => ?_⟩ <;> rw [← Bool.not_eq_true, State.defers_iff]
  · simp [hb]
  · simp [hstart, hsingle]

/-- Settles O18: the command waits, and the operation of the phase is due. -/
theorem startWaitsForTheStepInProgress : Obligations.StartWaitsForTheStepInProgress := by
  intro s w rest i ha hdec hi hb hlead hphase
  have hwaits : s.defers i = true := by
    refine State.defers_iff.2 ⟨hb, ?_⟩
    rcases hphase with hp | hp | hsingle
    · exact .inl ⟨hi, .inl hp⟩
    · exact .inl ⟨hi, .inr hp⟩
    · exact .inr hsingle
  rw [step_of_deferred ha hdec hwaits, autonomous_of_due (State.engineOp_eq_some.2 (.inl ⟨hb, hlead, rfl⟩))]

/-- Settles O57: each place named is none of those where the command waits. -/
theorem startIsTakenBetweenSteps : Obligations.StartIsTakenBetweenSteps := by
  intro s w rest i ha hdec hi hplace
  refine step_of_taken ha hdec ?_
  rw [← Bool.not_eq_true, State.defers_iff]
  rcases hplace with hb | hp | hp | hp | ⟨rfl, hp⟩
  · simp [hb]
  all_goals simp [hp]

/-- Settles O49: the two frames of the host commands, one for the tick and the platform, one for the time. -/
theorem hostCommandsTakeNoTime : Obligations.HostCommandsTakeNoTime := by
  intro i s t hi he
  have K := host_keeps hi he
  obtain ⟨hwire, hnow⟩ := host_keeps_wire_and_now hi he
  exact ⟨hnow, hwire, K.toMark, K.tickPend, K.tickPhase, K.busy, K.rem, K.phase, K.lead, K.gie, K.cfg, K.agenda⟩

end Sys2Proof.Machine
end

section
/-! Where the machine stops: STEP_B off the buffer (20 R81, log 12), and nowhere in a state of the invariant (20 R82, 60 R290). -/

namespace Sys2Proof.Machine

theorem State.bufRead_of_channel {s : State} {c : Nat} (h : 1 ≤ c ∧ c ≤ s.cfg.capacity.size) : s.bufRead c = some (Memory.read s.buf c) :=
  if_pos (State.hasChannel_iff.2 h)

theorem State.bufRead_of_no_channel {s : State} {c : Nat} (h : ¬ (1 ≤ c ∧ c ≤ s.cfg.capacity.size)) : s.bufRead c = none :=
  if_neg (mt State.hasChannel_iff.1 h)

/-- Settles O33: a cursor off the buffer names no channel. -/
theorem stepBStopsOffTheBuffer : Obligations.StepBStopsOffTheBuffer := by
  intro s hoff
  have hnone : s.bufRead s.cursor.toNat = none := State.bufRead_of_no_channel (by omega)
  simp only [exec, execStepB, hnone]

theorem execStepB_answers {s : State} (h : 1 ≤ s.cursor.toNat ∧ s.cursor.toNat ≤ s.cfg.capacity.size) : ∃ t, execStepB s = .next t := by
  simp only [execStepB, State.bufRead_of_channel h]
  exact ⟨_, rfl⟩

/-- Where STEP_B is due the cursor names a channel (20 R82). -/
theorem State.Inv.cursor_channel {s : State} (h : s.Inv) (hb : s.busy = true) (hp : s.phase = .stepB) :
    1 ≤ s.cursor.toNat ∧ s.cursor.toNat ≤ s.cfg.capacity.size := by
  have hok := h.phase_ok hb
  simp only [State.phaseOk, hp] at hok
  have hpos : s.cursor.toNat ≠ 0 := fun h0 => hok.1 (BitVec.eq_of_toNat_eq h0)
  exact ⟨Nat.one_le_iff_ne_zero.2 hpos, h.cursor_le⟩

/-- A host command answers a next state from every state: its faults are recorded, and the machine goes on (60 R292). -/
theorem host_answers {i : Instr} (hi : i.isHost = true) (s : State) : ∃ t, exec i s = .next t := by
  cases i <;> simp only [Instr.isHost, Bool.false_eq_true] at hi <;> simp only [exec]
  case start => unfold execStart; split <;> exact ⟨_, rfl⟩
  case startsingle => unfold execStartsingle; split <;> exact ⟨_, rfl⟩
  all_goals exact ⟨_, rfl⟩

/-- Of the engine's operations STEP_B alone could stop, and it is due only where the cursor names a channel. -/
theorem engine_answers {s : State} {i : Instr} (h : s.Inv) (hi : s.engineOp = some i) : ∃ t, exec i s = .next t := by
  rcases State.engineOp_eq_some.1 hi with ⟨hb, -, rfl⟩ | ⟨-, -, -, rfl⟩
  · cases hp : s.phase
    case stepB => exact execStepB_answers (h.cursor_channel hb hp)
    all_goals exact ⟨_, rfl⟩
  · exact ⟨_, rfl⟩

theorem autonomous_answers {s : State} (h : s.Inv) : ∃ t, autonomous s = .next t := by
  unfold autonomous
  split
  · next hi => exact engine_answers h hi
  · exact ⟨_, rfl⟩

theorem takeEngineTurn_answers {s : State} (h : s.Inv) : ∃ t, takeEngineTurn s = .next t := by
  unfold takeEngineTurn
  split
  · next hi => exact engine_answers h hi
  · exact ⟨_, rfl⟩

theorem takeCommand_answers {s : State} (h : s.Inv) (w : Word) (rest : List Event) : ∃ t, takeCommand w rest s = .next t := by
  unfold takeCommand
  split
  · exact ⟨_, rfl⟩
  · next hdec =>
    split
    · exact autonomous_answers h
    · exact host_answers (decode_isHost hdec) _

/-- Settles O56, by the agent that moves: the engine and a command that waits run the engine's operation, if any; the others cannot stop. -/
theorem machineNeverStops : Obligations.MachineNeverStops := by
  intro s hinv
  cases ha : s.agenda with
  | nil => rw [step_of_empty ha]; exact autonomous_answers hinv
  | cons e rest =>
    rw [step_of_entry ha]
    cases e with
    | command w => exact takeCommand_answers hinv w rest
    | engine => exact takeEngineTurn_answers (hinv.withAgenda rest)
    | mark => exact ⟨_, rfl⟩
    | pass n => exact ⟨_, rfl⟩
    | reset after => exact ⟨_, rfl⟩

end Sys2Proof.Machine
end

section
/-! The GPIO output registers: every transition but reset leaves alone the bits off the line that PINDESC names after it (20 R83). -/

namespace Sys2Proof.Machine

/-- From `s` to `t` every GPIO output bit is kept but those of the line PINDESC names in `t`. -/
def KeepsOtherBits (s t : State) : Prop :=
  ∀ port k, (∀ d, t.pindesc = some d → d.port = port → d.mask.testBit k = false) →
    (t.portBits port).testBit k = (s.portBits port).testBit k

theorem KeepsOtherBits.of_portOut {s t : State} (h : t.portOut = s.portOut) : KeepsOtherBits s t := by
  intro port k _
  unfold State.portBits
  rw [h]

/-- The emission of a step, with the budget charged before it and ADVANCE selected after it. -/
theorem State.stepEmission_keepsOtherBits {s : State} (hwf : storeWf 0 s.portOut = true) (left : Nat) (ls : List Level) :
    KeepsOtherBits s { ({ s with rem := left } : State).critical (State.emitLevels · ls) with phase := .advance } := by
  intro port k hother
  have F := State.emitLevels_frame ({ s with rem := left, gie := false } : State) ls
  refine State.emitLevels_other_bit (s := ({ s with rem := left, gie := false } : State)) ls hwf fun d hd => ?_
  exact hother d (F.pindesc.trans hd)

/-- A start drives the line it selects, if any. -/
theorem State.beginTransmission_keepsOtherBits {s : State} (hwf : storeWf 0 s.portOut = true) (m : Mode) (pin : PinId) :
    KeepsOtherBits s (s.beginTransmission m pin) := by
  unfold State.beginTransmission
  simp only
  split
  · exact fun port k hother => State.setLine_other_bit _ hwf hother
  · exact .of_portOut rfl

theorem host_keepsOtherBits {s t : State} {i : Instr} (hwf : storeWf 0 s.portOut = true) (hi : i.isHost = true) (he : exec i s = .next t) :
    KeepsOtherBits s t := by
  rcases (host_frame hi he).line with ⟨-, -, -, -, hout, -⟩ | rfl | rfl
  · exact .of_portOut hout
  all_goals
    simp only [exec, execStart, execStartsingle] at he
    split at he <;> cases he
    · exact .of_portOut rfl
    · exact State.beginTransmission_keepsOtherBits hwf _ _

/-- Of the engine's operations the two steps drive the line. -/
theorem engine_keepsOtherBits {s t : State} {i : Instr} (hwf : storeWf 0 s.portOut = true) (hi : s.engineOp = some i)
    (he : exec i s = .next t) : KeepsOtherBits s t := by
  rcases State.engineOp_eq_some.1 hi with ⟨-, -, rfl⟩ | ⟨-, -, -, rfl⟩
  · cases hp : s.phase <;> rw [hp] at he <;> simp only [Phase.operation, exec] at he
    case select => cases he; exact .of_portOut rfl
    case stepA =>
      obtain ⟨rfl, -⟩ := execStepA_cases he
      exact State.stepEmission_keepsOtherBits hwf _ _
    case stepB =>
      obtain ⟨v, -, rfl, -⟩ := execStepB_cases he
      exact State.stepEmission_keepsOtherBits hwf _ _
    case advance => cases he; split <;> exact .of_portOut rfl
    case boundary => cases he; split <;> exact .of_portOut rfl
    case ret => cases he; exact .of_portOut rfl
  · cases he; exact .of_portOut rfl

theorem State.passToNext_portOut (s : State) : s.passToNext.portOut = s.portOut := by
  unfold State.passToNext
  split <;> rfl

/-- Every transition but reset, by its kind; only those that run an operation can drive the line. -/
theorem step_keepsOtherBits {s t : State} (hwf : storeWf 0 s.portOut = true) (hstep : step s = .next t) (hreset : s.resetNext = false) :
    KeepsOtherBits s t := by
  rcases step_cases hstep with ⟨i, ⟨hi, -⟩, he | ⟨rest, -, he⟩⟩ | ⟨w, i, rest, -, hdec, -, he⟩ | ⟨w, r, rest, -, -, rfl⟩ | ⟨-, -, rfl⟩ |
    ⟨e, rest, -, -, rfl⟩ | ⟨rest, -, -, rfl⟩ | ⟨n, rest, -, rfl⟩ | ⟨n, rest, hagenda, -⟩
  · exact engine_keepsOtherBits hwf hi he
  · exact engine_keepsOtherBits (s := s.withAgenda rest) hwf hi he
  · exact host_keepsOtherBits (s := s.withAgenda rest) hwf (decode_isHost hdec) he
  · exact .of_portOut rfl
  · exact .of_portOut s.passToNext_portOut
  · exact .of_portOut rfl
  · exact .of_portOut rfl
  · exact .of_portOut rfl
  · simp [State.resetNext, hagenda] at hreset

/-- Settles O27: a bit off the line PINDESC names after the transition would have been kept. -/
theorem onlyTheSelectedLineIsDriven : Obligations.OnlyTheSelectedLineIsDriven := by
  intro s t port k hinv hstep hreset hchanged
  by_contra hnone
  refine hchanged (step_keepsOtherBits hinv.portOut_wf hstep hreset port k fun d hd hport => ?_)
  rw [← Bool.not_eq_true]
  exact fun hbit => hnone ⟨d, hd, hport, hbit⟩

end Sys2Proof.Machine
end

section
/-! Command words: the three fields of a word, the fields of a host command, and how `decode`, `encode` and the table of 30 R118 go
through them (30 R115 to R122). -/

namespace Sys2Proof

/-! ## The fields of a word -/

theorem opField_eq_div (w : Word) : opField w = w.toNat / 2 ^ 28 := by
  have := w.isLt
  simp only [opField, BitVec.extractLsb'_toNat, Nat.shiftRight_eq_div_pow]
  omega

theorem chField_toNat (w : Word) : (chField w).toNat = w.toNat / 2 ^ 16 % 2 ^ 12 := by
  simp only [chField, BitVec.extractLsb'_toNat, Nat.shiftRight_eq_div_pow]

theorem argField_toNat (w : Word) : (argField w).toNat = w.toNat % 2 ^ 16 := by
  simp [argField, BitVec.extractLsb'_toNat]

theorem opField_lt (w : Word) : opField w < 16 := (w.extractLsb' 28 4).isLt

/-- A word is its three fields (30 R115). -/
theorem word_eq_iff {v w : Word} : v = w ↔ opField v = opField w ∧ chField v = chField w ∧ argField v = argField w := by
  refine ⟨fun h => h ▸ ⟨rfl, rfl, rfl⟩, fun ⟨hop, hch, harg⟩ => BitVec.eq_of_toNat_eq ?_⟩
  have hch := congrArg BitVec.toNat hch
  have harg := congrArg BitVec.toNat harg
  simp only [opField_eq_div, chField_toNat, argField_toNat] at hop hch harg
  omega

theorem opField_and (v w : Word) : opField (v &&& w) = opField v &&& opField w := by
  simp [opField, BitVec.extractLsb'_and]

theorem chField_and (v w : Word) : chField (v &&& w) = chField v &&& chField w := BitVec.extractLsb'_and

theorem argField_and (v w : Word) : argField (v &&& w) = argField v &&& argField w := BitVec.extractLsb'_and

theorem assemble_toNat {op : Nat} (hop : op < 16) (ch arg : Int) :
    (assemble op ch arg).toNat = op * 2 ^ 28 + (BitVec.ofInt 12 ch).toNat * 2 ^ 16 + (BitVec.ofInt 16 arg).toNat := by
  have hch := (BitVec.ofInt 12 ch).isLt
  have harg := (BitVec.ofInt 16 arg).isLt
  simp only [BitVec.toNat_ofInt] at hch harg ⊢
  rw [assemble, BitVec.toNat_ofNat, Nat.mod_eq_of_lt]
  · rfl
  · omega

/-- `assemble` puts each operand, modulo its field's size, into its field (30 R122). -/
theorem assemble_eq_iff {op : Nat} (hop : op < 16) {ch arg : Int} {w : Word} :
    assemble op ch arg = w ↔ op = opField w ∧ BitVec.ofInt 12 ch = chField w ∧ BitVec.ofInt 16 arg = argField w := by
  have hword := assemble_toNat hop ch arg
  have hch := (BitVec.ofInt 12 ch).isLt
  have harg := (BitVec.ofInt 16 arg).isLt
  rw [word_eq_iff]
  simp only [← BitVec.toNat_inj, opField_eq_div, chField_toNat, argField_toNat, hword]
  refine and_congr ?_ (and_congr ?_ ?_) <;> refine Eq.congr_left ?_ <;> omega

/-! ## Signed operands -/

theorem sext_eq_toInt {n : Nat} (f : BitVec n) : sext f = f.toInt := by
  simp [sext, BitVec.toInt_eq_msb_cond]

@[simp] theorem ofInt_sext {n : Nat} (f : BitVec n) : BitVec.ofInt n (sext f) = f := by
  rw [sext_eq_toInt, BitVec.ofInt_toInt]

/-- Sign extension gives an operand of the field's range back. -/
theorem sext_ofInt {n : Nat} (hn : 0 < n) {x : Int} (h : -2 ^ (n - 1) ≤ x ∧ x < 2 ^ (n - 1)) : sext (BitVec.ofInt n x) = x := by
  rw [sext_eq_toInt, BitVec.toInt_ofInt_eq_self hn h.1 h.2]

theorem chInRange_iff {ch : Int} : chInRange ch = true ↔ -2 ^ (12 - 1) ≤ ch ∧ ch < 2 ^ (12 - 1) := by
  simp only [chInRange, Bool.and_eq_true, decide_eq_true_eq]
  omega

theorem valInRange_iff {val : Int} : valInRange val = true ↔ -2 ^ (16 - 1) ≤ val ∧ val < 2 ^ (16 - 1) := by
  simp only [valInRange, Bool.and_eq_true, decide_eq_true_eq]
  omega

@[simp] theorem chInRange_sext (f : BitVec 12) : chInRange (sext f) = true :=
  chInRange_iff.2 (sext_eq_toInt f ▸ ⟨f.le_toInt, f.toInt_lt⟩)

@[simp] theorem valInRange_sext (f : BitVec 16) : valInRange (sext f) = true :=
  valInRange_iff.2 (sext_eq_toInt f ▸ ⟨f.le_toInt, f.toInt_lt⟩)

theorem sext_ofInt_of_chInRange {ch : Int} (h : chInRange ch = true) : sext (BitVec.ofInt 12 ch) = ch :=
  sext_ofInt (by decide) (chInRange_iff.1 h)

theorem sext_ofInt_of_valInRange {val : Int} (h : valInRange val = true) : sext (BitVec.ofInt 16 val) = val :=
  sext_ofInt (by decide) (valInRange_iff.1 h)

/-! ## The fields of a host command -/

/-- OP, CH and ARG of the word of a host command (30 R118); none for an engine operation. -/
def Instr.fields : Instr → Option (Nat × BitVec 12 × BitVec 16)
  | .write ch val => some (1, BitVec.ofInt 12 ch, BitVec.ofInt 16 val)
  | .setmax ch    => some (2, BitVec.ofInt 12 ch, 0)
  | .setpin pin   => some (3, 0, pin)
  | .start        => some (4, 0, 0)
  | .startsingle  => some (5, 0, 0)
  | .stop         => some (6, 0, 0)
  | .read ch      => some (7, BitVec.ofInt 12 ch, 0)
  | .readmax      => some (8, 0, 0)
  | .status       => some (9, 0, 0)
  | .tick | .select | .stepA | .stepB | .advance | .boundary | .ret | .txbyte _ | .brk | .mab => none

/-- A command's word is the one with the command's fields. -/
theorem encode_eq_some_iff {i : Instr} {w : Word} :
    encode i = some w ↔ i.wellFormed = true ∧ i.fields = some (opField w, chField w, argField w) := by
  cases h : i.wellFormed with
  | false => simp [encode, h]
  | true => cases i <;> simp [encode, h, Instr.fields, assemble_eq_iff]

theorem ifZero_eq_ok_iff {zero : Bool} {i j : Instr} : ifZero zero j = .ok i ↔ zero = true ∧ j = i := by
  cases zero <;> simp [ifZero]

/-- A word decodes to the well-formed command that has its fields. -/
theorem decode_eq_ok_iff {i : Instr} {w : Word} :
    decode w = .ok i ↔ i.wellFormed = true ∧ i.fields = some (opField w, chField w, argField w) := by
  constructor
  · intro h
    unfold decode at h
    split at h <;> simp only [ifZero_eq_ok_iff, Bool.and_eq_true, beq_iff_eq, Except.ok.injEq, reduceCtorEq] at h
    case h_1 hop => subst h; simp [Instr.wellFormed, Instr.fields, hop]
    all_goals
      next hop =>
      obtain ⟨hzero, rfl⟩ := h
      simp [Instr.wellFormed, Instr.fields, hop, hzero]
  · rintro ⟨hwf, hfields⟩
    cases i <;> simp only [Instr.fields, Option.some.injEq, Prod.mk.injEq, reduceCtorEq] at hfields
    all_goals
      obtain ⟨hop, hch, harg⟩ := hfields
      simp only [Instr.wellFormed, Bool.and_eq_true] at hwf
      simp [decode, ← hop, ← hch, ← harg, ifZero, sext_ofInt_of_chInRange, sext_ofInt_of_valInRange, hwf]

theorem decode_eq_ok_iff_encode_eq_some {i : Instr} {w : Word} : decode w = .ok i ↔ encode i = some w :=
  decode_eq_ok_iff.trans encode_eq_some_iff.symm

/-- The model's law of 30 R121 and R122, for all operations at once. -/
theorem encode_isSome (i : Instr) : (encode i).isSome = (i.isHost && i.wellFormed) := by
  cases i
  exacts [Laws.Encodable.write _ _, Laws.Encodable.setmax _, Laws.Encodable.setpin _, Laws.Encodable.start, Laws.Encodable.startsingle,
    Laws.Encodable.stop, Laws.Encodable.read _, Laws.Encodable.readmax, Laws.Encodable.status, Laws.Encodable.tick,
    Laws.Encodable.select, Laws.Encodable.stepA, Laws.Encodable.stepB, Laws.Encodable.advance, Laws.Encodable.boundary,
    Laws.Encodable.ret, Laws.Encodable.txbyte _, Laws.Encodable.brk, Laws.Encodable.mab]

/-- Settles O22: the word exists by 30 R122, and has the fields that `decode` reads. -/
theorem decodeOfEncodeIsTheCommand : Obligations.DecodeOfEncodeIsTheCommand := by
  intro i hhost hwf
  obtain ⟨w, hw⟩ := Option.isSome_iff_exists.1 ((encode_isSome i).trans (by rw [hhost, hwf]; rfl))
  exact ⟨w, hw, decode_eq_ok_iff_encode_eq_some.2 hw⟩

/-- Settles O23: the word and the command have the same fields, and no word has more than its fields. -/
theorem encodeOfDecodeIsTheWord : Obligations.EncodeOfDecodeIsTheWord := by
  intro w i h
  exact ⟨Machine.decode_isHost h, (decode_eq_ok_iff.1 h).1, decode_eq_ok_iff_encode_eq_some.1 h⟩

/-! ## The table -/

/-- The table's masks cover OP and its patterns fix OP alone. -/
theorem encodingTable_fields {row : EncodingRow} (h : row ∈ encodingTable) :
    opField row.mask = 15 ∧ chField row.pattern = 0 ∧ argField row.pattern = 0 := by
  have hall : ∀ row ∈ encodingTable, opField row.mask = 15 ∧ chField row.pattern = 0 ∧ argField row.pattern = 0 := by decide
  exact hall row h

/-- A row selects the words of its OP in which the fields it marks 0 are 0 (30 R118). -/
theorem selects_iff {row : EncodingRow} (h : row ∈ encodingTable) (w : Word) :
    w &&& row.mask = row.pattern ↔
      opField w = opField row.pattern ∧ chField w &&& chField row.mask = 0 ∧ argField w &&& argField row.mask = 0 := by
  obtain ⟨hmask, hch, harg⟩ := encodingTable_fields h
  have hop : opField w &&& 15 = opField w := (Nat.and_two_pow_sub_one_eq_mod _ 4).trans (Nat.mod_eq_of_lt (opField_lt w))
  rw [word_eq_iff, opField_and, chField_and, argField_and, hmask, hch, harg, hop]

theorem encodingTable_opField {row : EncodingRow} (h : row ∈ encodingTable) : 1 ≤ opField row.pattern ∧ opField row.pattern ≤ 9 := by
  have hall : ∀ row ∈ encodingTable, 1 ≤ opField row.pattern ∧ opField row.pattern ≤ 9 := by decide
  exact hall row h

/-- The rows have different opcodes. -/
theorem encodingTable_opField_injective {row row' : EncodingRow} (h : row ∈ encodingTable) (h' : row' ∈ encodingTable)
    (hop : opField row.pattern = opField row'.pattern) : row = row' := by
  have hall : ∀ row ∈ encodingTable, ∀ row' ∈ encodingTable, opField row.pattern = opField row'.pattern → row = row' := by decide
  exact hall row h row' h' hop

/-- The fields of a host command are those of the table's row of its mnemonic. -/
theorem Instr.exists_row_of_fields {i : Instr} {op : Nat} {ch : BitVec 12} {arg : BitVec 16} (h : i.fields = some (op, ch, arg)) :
    ∃ row ∈ encodingTable, row.mnemonic = i.mnemonic ∧
      op = opField row.pattern ∧ ch &&& chField row.mask = 0 ∧ arg &&& argField row.mask = 0 := by
  cases i <;> cases h <;> simp [encodingTable, Instr.mnemonic, opField, chField, argField]

theorem exists_row_of_decode {w : Word} {i : Instr} (h : decode w = .ok i) :
    ∃ row ∈ encodingTable, w &&& row.mask = row.pattern ∧ row.mnemonic = i.mnemonic := by
  obtain ⟨row, hrow, hname, hfields⟩ := Instr.exists_row_of_fields (decode_eq_ok_iff.1 h).2
  exact ⟨row, hrow, (selects_iff hrow w).2 hfields, hname⟩

theorem decode_of_row {w : Word} {row : EncodingRow} (hrow : row ∈ encodingTable) (h : w &&& row.mask = row.pattern) :
    ∃ i, decode w = .ok i ∧ i.mnemonic = row.mnemonic := by
  obtain ⟨hop, hch, harg⟩ := (selects_iff hrow w).1 h
  -- a field of a mask is all ones or all zeros
  have hchAll : ∀ ch : BitVec 12, ch &&& 4095#12 = ch := fun _ => BitVec.and_allOnes
  have hargAll : ∀ arg : BitVec 16, arg &&& 65535#16 = arg := fun _ => BitVec.and_allOnes
  unfold decode
  rw [hop]
  generalize chField w = ch, argField w = arg at hch harg ⊢
  simp only [encodingTable, List.mem_cons, List.not_mem_nil, or_false] at hrow
  rcases hrow with rfl | rfl | rfl | rfl | rfl | rfl | rfl | rfl | rfl
  · exact ⟨_, rfl, rfl⟩
  all_goals
    simpa [opField, chField, argField, hchAll, hargAll, ifZero_eq_ok_iff, Instr.mnemonic] using And.intro hch harg

/-- Settles O20: both directions by the fields, and the rows are disjoint since their opcodes differ. -/
theorem decodeAgreesWithTheTable : Obligations.DecodeAgreesWithTheTable := by
  intro w
  refine ⟨fun i => exists_row_of_decode, fun row => decode_of_row, fun row hrow row' hrow' h h' => ?_⟩
  obtain ⟨hop, -⟩ := (selects_iff hrow w).1 h
  obtain ⟨hop', -⟩ := (selects_iff hrow' w).1 h'
  exact encodingTable_opField_injective hrow hrow' (hop.symm.trans hop')

/-! ## Operands -/

theorem sext_chField (w : Word) :
    sext (chField w) =
      if 2048 ≤ w.toNat / 2 ^ 16 % 2 ^ 12 then ((w.toNat / 2 ^ 16 % 2 ^ 12 : Nat) : Int) - 4096 else (w.toNat / 2 ^ 16 % 2 ^ 12 : Nat) := by
  simp [sext, BitVec.msb_eq_decide, chField_toNat]

theorem sext_argField (w : Word) :
    sext (argField w) = if 32768 ≤ w.toNat % 2 ^ 16 then ((w.toNat % 2 ^ 16 : Nat) : Int) - 65536 else (w.toNat % 2 ^ 16 : Nat) := by
  simp [sext, BitVec.msb_eq_decide, argField_toNat]

/-- Settles O21: at each of the four opcodes `decode` has one command to answer, with the operands of its fields. -/
theorem operandsAreAssembledAsStated : Obligations.OperandsAreAssembledAsStated := by
  intro w i h
  have hpin : BitVec.ofNat 16 (w.toNat % 2 ^ 16) = argField w := by rw [← argField_toNat, BitVec.ofNat_toNat, BitVec.setWidth_eq]
  simp only [← opField_eq_div, ← sext_chField, ← sext_argField, hpin]
  refine ⟨fun hop => ?_, fun hop => ?_, fun hop => ?_, fun hop => ?_⟩ <;> simp only [decode, hop] at h
  · cases h; rfl
  all_goals exact (ifZero_eq_ok_iff.1 h).2.symm

/-- Settles O24, by running the decoder. -/
theorem knownWordsDecode : Obligations.KnownWordsDecode := by
  unfold Obligations.KnownWordsDecode
  decide

end Sys2Proof
end

section
/-! Words that are no command (30 R119). -/

namespace Sys2Proof.Machine

theorem step_of_rejected {s : State} {w : Word} {rest : List Event} {r : Reject} (ha : s.agenda = .command w :: rest)
    (hdec : decode w = .error r) : step s = .next ((s.withAgenda rest).raiseFault .illegalCommand) := by
  rw [step_of_entry ha]
  simp [takeEntry, takeCommand, hdec, State.withAgenda]

/-- Settles O19: such a word is selected by no row of the table, so it does not decode. -/
theorem illegalWordRecordsTheFault : Obligations.IllegalWordRecordsTheFault := by
  intro s w rest ha op hillegal
  cases hdec : decode w with
  | error r => exact step_of_rejected ha hdec
  | ok i =>
    obtain ⟨row, hrow, hsel, -⟩ := exists_row_of_decode hdec
    have hop : op = opField row.pattern := (opField_eq_div w).symm.trans ((selects_iff hrow w).1 hsel).1
    obtain ⟨hpos, hle⟩ := encodingTable_opField hrow
    rcases hillegal with hreserved | ⟨-, -, hnone⟩
    · omega
    · exact absurd hsel (hnone row hrow (by rw [← opField_eq_div, hop]))

end Sys2Proof.Machine
end

section
/-! A frame sent inside one tick with nothing on the agenda: what the wire, the budget and the time are after any number of its slots, one
lemma for each operation of the engine that sends it, and the SingleShot tick put together from them (30 R113, 41 R181 to R188). -/

namespace Sys2Proof.Machine

/-! ## Runs from one state to another -/

/-- Some run of the machine leads from `s` to `t`. -/
def Reaches (s t : State) : Prop := ∃ k, Host.Core.run Sys2Proof.core k s = .next t

theorem Reaches.refl (s : State) : Reaches s s := ⟨0, run_zero s⟩

theorem Reaches.of_step {s t : State} (h : step s = .next t) : Reaches s t := ⟨1, run_succ 0 h⟩

theorem Reaches.trans {s t u : State} (h : Reaches s t) (h' : Reaches t u) : Reaches s u := by
  obtain ⟨k, hk⟩ := h
  obtain ⟨n, hn⟩ := h'
  exact ⟨k + n, (run_add n hk).trans hn⟩

theorem Reaches.of_due {s t : State} {i : Instr} (ha : s.agenda = []) (hi : s.engineOp = some i) (he : exec i s = .next t) :
    Reaches s t :=
  .of_step (by rw [step_of_empty ha, autonomous_of_due hi, he])

/-! ## Inside the tick -/

/-- In the tick that began in `s`, after the entry latency and the slots `sent`, the operation of `phase` is due at `cursor`: the slots are
on the wire, each has cost one of the budget and taken CPB cycles, and what no step writes is as it was. -/
structure InTick (s : State) (latency : Nat) (sent : List Level) (phase : Phase) (cursor : Nat) (u : State) : Prop where
  cfg    : u.cfg = s.cfg
  buf    : u.buf = s.buf
  maxch  : u.maxch = s.maxch
  mode   : u.mode = s.mode
  agenda : u.agenda = []
  busy   : u.busy = true
  lead   : u.lead = 0
  phase  : u.phase = phase
  cursor : u.cursor.toNat = cursor
  rem    : u.rem + sent.length = s.cfg.budgetBits
  now    : u.now = s.now + latency + sent.length * s.cfg.cpb
  wire   : u.wire = s.wire ++ idleSegs s.line latency ++ slots s.cfg sent
  line   : sent ≠ [] → u.line = .high

section
variable {s u : State} {latency cursor : Nat} {sent : List Level}

/-- The delivery of a tick and its latency, which is no cycle at all or one passing of time (41 R181). -/
theorem reaches_inTick (hs : s.deliverable = true) (ha : s.agenda = []) :
    ∃ u, Reaches s u ∧ InTick s (drawLatency s.cfg s.draws) [] .select s.cursor.toNat u := by
  obtain ⟨htie, hbusy, hpend⟩ := State.deliverable_iff.1 hs
  have htick : Reaches s s.enterTick := .of_due ha (State.engineOp_eq_some.2 (.inr ⟨hbusy, htie, hpend, rfl⟩)) rfl
  have hlead : Reaches s.enterTick { s.enterTick.elapse s.enterTick.lead with lead := 0 } := by
    rcases Nat.eq_zero_or_pos s.enterTick.lead with h0 | hpos
    · have hsame : ({ s.enterTick.elapse s.enterTick.lead with lead := 0 } : State) = s.enterTick := by
        rw [h0, State.elapse_zero, ← h0]
      rw [hsame]
      exact .refl _
    · refine .of_step ?_
      rw [step_of_empty (s := s.enterTick) ha, autonomous, State.engineOp_eq_none.2 (.inl ⟨rfl, hpos⟩)]
      rfl
  refine ⟨_, htick.trans hlead, ?_⟩
  constructor <;> simp [idleSegs, slots, ha]
  split <;> simp

/-- The operation due inside a tick is the one its phase names. -/
theorem InTick.reaches {phase : Phase} {t : State} (h : InTick s latency sent phase cursor u) (he : exec phase.operation u = .next t) :
    Reaches u t :=
  .of_due h.agenda (State.engineOp_eq_some.2 (.inl ⟨h.busy, h.lead, rfl⟩)) (by rw [h.phase, he])

/-- An operation that writes the cursor and the phase only. -/
theorem InTick.moveTo {phase phase' : Phase} {cursor' : Nat} {c : BitVec 16} (h : InTick s latency sent phase cursor u)
    (hc : c.toNat = cursor') : InTick s latency sent phase' cursor' { u with cursor := c, phase := phase' } :=
  { h with phase := rfl, cursor := hc }

/-- The emission of a step puts its slots behind those sent before. -/
theorem InTick.emit {phase : Phase} {ls : List Level} (h : InTick s latency sent phase cursor u) (hcpb : 1 ≤ s.cfg.cpb)
    (hrem : ls.length ≤ u.rem) (hlast : ∀ l, ls.getLastD l = .high) :
    InTick s latency (sent ++ ls) .advance cursor
      { ({ u with rem := u.rem - ls.length } : State).critical (State.emitLevels · ls) with phase := .advance } := by
  have F := State.critical_frame (s := ({ u with rem := u.rem - ls.length } : State)) fun t => t.emitLevels_frame ls
  have hnow := State.critical_emit_now ({ u with rem := u.rem - ls.length } : State) ls
  have hwire := State.critical_emit_wire (s := ({ u with rem := u.rem - ls.length } : State)) (h.cfg ▸ hcpb) ls
  have hline := State.critical_emit_line ({ u with rem := u.rem - ls.length } : State) ls
  have hbudget := h.rem
  constructor
  case rem => simp only [F.rem, List.length_append]; omega
  case now => exact hnow.trans (by simp only [h.now, h.cfg, List.length_append]; ring)
  case wire => exact hwire.trans (by simp only [h.wire, h.cfg, slots, List.map_append, List.append_assoc])
  case line => exact fun _ => hline.trans (hlast _)
  case phase => rfl
  exacts [F.cfg.trans h.cfg, F.buf.trans h.buf, F.maxch.trans h.maxch, F.mode.trans h.mode, F.agenda.trans h.agenda, F.busy.trans h.busy,
    F.lead.trans h.lead, (congrArg _ F.cursor).trans h.cursor]

/-- SELECT and STEP_A, where the budget covers the 35 slots (41 R182, R183). -/
theorem InTick.stepA (h : InTick s latency sent .select 0 u) (hcpb : 1 ≤ s.cfg.cpb) (hrem : 35 ≤ u.rem) :
    ∃ t, Reaches u t ∧ InTick s latency (sent ++ stepALevels) .advance 0 t := by
  have hcursor : u.cursor = 0 := BitVec.eq_of_toNat_eq h.cursor
  have hselect : execSelect u = .next { u with cursor := 0, phase := .stepA } := by
    simp [execSelect, hcursor, costA, hrem]
  have hdue := h.moveTo (phase' := .stepA) (c := 0) rfl
  obtain ⟨t, ht⟩ : ∃ t, execStepA { u with cursor := 0, phase := .stepA } = .next t := ⟨_, rfl⟩
  refine ⟨t, (h.reaches hselect).trans (hdue.reaches ht), ?_⟩
  obtain ⟨rfl, -⟩ := execStepA_cases ht
  exact hdue.emit hcpb (by rwa [stepALevels_length]) stepALevels_getLastD

/-- SELECT and STEP_B at a channel, where the budget covers the 11 slots (41 R182, R184). -/
theorem InTick.stepB (h : InTick s latency sent .select cursor u) (hcpb : 1 ≤ s.cfg.cpb) (hrem : 11 ≤ u.rem)
    (hc : 1 ≤ cursor ∧ cursor ≤ s.cfg.capacity.size) :
    ∃ t, Reaches u t ∧ InTick s latency (sent ++ frame (Memory.read s.buf cursor)) .advance cursor t := by
  obtain rfl := h.cursor
  have hne : u.cursor ≠ 0 := fun h0 => by simp [h0] at hc
  have hselect : execSelect u = .next { u with cursor := u.cursor, phase := .stepB } := by
    rw [execSelect, if_neg hne, costB, if_pos hrem]
  have hdue := h.moveTo (phase' := .stepB) (c := u.cursor) rfl
  obtain ⟨t, ht⟩ := execStepB_answers (s := { u with cursor := u.cursor, phase := .stepB }) (h.cfg ▸ hc)
  refine ⟨t, (h.reaches hselect).trans (hdue.reaches ht), ?_⟩
  obtain ⟨v, hv, rfl, -⟩ := execStepB_cases ht
  rw [State.bufRead_of_channel (h.cfg ▸ hc), hdue.buf, Option.some.injEq] at hv
  subst hv
  exact hdue.emit hcpb (by rwa [frame_length]) (frame_getLastD _)

/-- ADVANCE goes to the next channel up to MAXCH (41 R186). -/
theorem InTick.advance (h : InTick s latency sent .advance cursor u) (hc : cursor + 1 ≤ s.maxch.toNat) :
    ∃ t, Reaches u t ∧ InTick s latency sent .select (cursor + 1) t := by
  obtain rfl := h.cursor
  have hadvance : execAdvance u = .next { u with cursor := BitVec.ofNat 16 (u.cursor.toNat + 1), phase := .select } := by
    rw [execAdvance, if_neg (by rw [h.maxch]; omega)]
  have hval : (BitVec.ofNat 16 (u.cursor.toNat + 1)).toNat = u.cursor.toNat + 1 :=
    Nat.mod_eq_of_lt (Nat.lt_of_le_of_lt hc s.maxch.isLt)
  exact ⟨_, h.reaches hadvance, h.moveTo hval⟩

/-- ADVANCE past MAXCH wraps the cursor and comes to the frame boundary (41 R186). -/
theorem InTick.wrap (h : InTick s latency sent .advance cursor u) (hc : s.maxch.toNat ≤ cursor) :
    ∃ t, Reaches u t ∧ InTick s latency sent .boundary 0 t := by
  obtain rfl := h.cursor
  have hadvance : execAdvance u = .next { u with cursor := 0, phase := .boundary } := by
    rw [execAdvance, if_pos (by rw [h.maxch]; omega)]
  exact ⟨_, h.reaches hadvance, h.moveTo rfl⟩

end

/-! ## The whole frame -/

theorem frameLevels_zero (s : State) : frameLevels s 0 = stepALevels := by simp [frameLevels, stepALevels, startCode]

theorem frameLevels_succ (s : State) (n : Nat) : frameLevels s (n + 1) = frameLevels s n ++ frame (Memory.read s.buf (n + 1)) := by
  simp [frameLevels, List.range_succ]

theorem frameLevels_length (s : State) (n : Nat) : (frameLevels s n).length = 35 + 11 * n := by
  induction n with
  | zero => rw [frameLevels_zero, stepALevels_length]
  | succ n ih => rw [frameLevels_succ, List.length_append, ih, frame_length]; ring

/-- The start code and the first `n` channels, by induction on the channels (30 R113). -/
theorem InTick.sends_channels {s u : State} {latency : Nat} (h : InTick s latency [] .select 0 u) (hcpb : 1 ≤ s.cfg.cpb)
    (hmax : s.maxch.toNat ≤ s.cfg.capacity.size) {n : Nat} (hn : n ≤ s.maxch.toNat) (hbudget : 35 + 11 * n ≤ s.cfg.budgetBits) :
    ∃ t, Reaches u t ∧ InTick s latency (frameLevels s n) .advance n t := by
  induction n with
  | zero =>
    have hrem := h.rem
    rw [frameLevels_zero]
    exact h.stepA hcpb (by simp at hrem; omega)
  | succ n ih =>
    obtain ⟨t, hut, ht⟩ := ih (by omega) (by omega)
    obtain ⟨t', htt', ht'⟩ := ht.advance hn
    have hrem := ht'.rem
    rw [frameLevels_length] at hrem
    obtain ⟨t'', htt'', ht''⟩ := ht'.stepB hcpb (by omega) ⟨by omega, by omega⟩
    exact ⟨t'', (hut.trans htt').trans htt'', frameLevels_succ s n ▸ ht''⟩

/-- Settles O41: the tick is delivered, sends the whole frame, and ends at the boundary (41 R187), which keeps the wire and the time. -/
theorem singleShotSendsExactlyOneFrame : Obligations.SingleShotSendsExactlyOneFrame := by
  intro s hinv hmode hcursor hbusy hpend ha hbudget
  have htie : s.tie = true := (hinv.tie_iff hbusy).2 (by simp [hmode])
  obtain ⟨u, hsu, hu⟩ := reaches_inTick (State.deliverable_iff.2 ⟨htie, hbusy, hpend⟩) ha
  rw [hcursor] at hu
  obtain ⟨v, huv, hv⟩ := hu.sends_channels hinv.cfg_valid.cpb_pos hinv.maxch_le (Nat.le_refl _) hbudget
  obtain ⟨t, hvt, ht⟩ := hv.wrap (Nat.le_refl _)
  have hend : execBoundary t = .next t.endTransmission := by
    rw [execBoundary, if_neg (by simp [ht.mode, hmode])]
  obtain ⟨k, hk⟩ := ((hsu.trans huv).trans hvt).trans (ht.reaches hend)
  have hlength := frameLevels_length s s.maxch.toNat
  have hsent : frameLevels s s.maxch.toNat ≠ [] := List.ne_nil_of_length_pos (by omega)
  exact ⟨k, t.endTransmission, _, hk, drawLatency_le _ _, ht.wire, hlength ▸ ht.now, rfl, rfl, rfl, BitVec.eq_of_toNat_eq ht.cursor,
    ht.line hsent, ht.buf, ht.maxch⟩

end Sys2Proof.Machine
end

section
/-! The Byte Transmitter: an emission of any slots drives the line PINDESC names to the level of its last slot and changes nothing else but
what time changes; TXBYTE, BREAK and MAB are three such emissions (40 R151 to R159). The two steps are emissions as well, so once the line is
high it stays so (40 R152). -/

namespace Sys2Proof.Machine

/-! ## The line an emission drives -/

theorem driveBits_levelOf {bits mask i : Nat} (high : Bool) (h : mask.testBit i = true) :
    (driveBits bits mask (levelOf high)).testBit i = high := by
  cases high <;> simp [levelOf, driveBits, h]

theorem State.setLine_driven_bit {s : State} {d : PinDesc} {i : Nat} (high : Bool) (hwf : storeWf 0 s.portOut = true)
    (hd : s.pindesc = some d) (hi : d.mask.testBit i = true) :
    ((s.setLine (levelOf high)).portBits d.port).testBit i = high := by
  rw [State.portBits, State.setLine_portOut_some _ hd, storeGet_storeSet_same _ _ hwf]
  exact driveBits_levelOf high hi

/-- The last slot decides the level at which the line is left. -/
theorem State.emitLevels_driven_bit {s : State} {d : PinDesc} {i : Nat} {ls : List Level} {high : Bool}
    (hwf : storeWf 0 s.portOut = true) (hlast : ls.getLast? = some (levelOf high)) (hd : s.pindesc = some d)
    (hi : d.mask.testBit i = true) : ((s.emitLevels ls).portBits d.port).testBit i = high := by
  obtain ⟨init, rfl⟩ := List.getLast?_eq_some_iff.1 hlast
  rw [State.emitLevels_append]
  exact State.setLine_driven_bit high (State.emitLevels_portOut_wf init hwf) ((s.emitLevels_frame init).pindesc.trans hd) hi

theorem State.critical_emit_drivesOnly {s : State} {ls : List Level} {high : Bool} (hwf : storeWf 0 s.portOut = true)
    (hlast : ls.getLast? = some (levelOf high)) : DrivesOnly s (s.critical (State.emitLevels · ls)) high :=
  ⟨fun _ _ hd hi => State.emitLevels_driven_bit (s := { s with gie := false }) hwf hlast hd hi,
    fun _ _ hother => State.emitLevels_other_bit (s := { s with gie := false }) ls hwf hother⟩

/-! ## What an emission is -/

/-- From `s` to `t` the line takes the levels `ls`, one slot each, and is left `high`; nothing else changes but what time changes. -/
structure Emits (s : State) (ls : List Level) (high : Bool) (t : State) : Prop where
  wire     : t.wire = s.wire ++ slots s.cfg ls
  line     : t.line = levelOf high
  now      : t.now = s.now + ls.length * s.cfg.cpb
  drives   : DrivesOnly s t high
  toMark   : t.toMark = toMarkAfter s.cfg.tickCycles s.toMark (ls.length * s.cfg.cpb)
  tickPend : t.tickPend = pendAfter s.toMark (ls.length * s.cfg.cpb) s.tickPend
  frame    : t = { s with line := t.line, portOut := t.portOut, now := t.now, toMark := t.toMark, tickPend := t.tickPend, wire := t.wire }

theorem EmissionFrame.eq_update {s t : State} (h : EmissionFrame s t) :
    t = { s with line := t.line, portOut := t.portOut, now := t.now, toMark := t.toMark, tickPend := t.tickPend, wire := t.wire } := by
  cases s
  cases t
  cases h
  simp_all

theorem State.critical_emits {s : State} {ls : List Level} {high : Bool} (hv : s.cfg.Valid) (hwf : storeWf 0 s.portOut = true)
    (hlast : ls.getLast? = some (levelOf high)) : Emits s ls high (s.critical (State.emitLevels · ls)) where
  wire     := State.critical_emit_wire hv.cpb_pos ls
  line     := by rw [State.critical_emit_line, List.getLastD_eq_getLast?, hlast]; rfl
  now      := State.critical_emit_now s ls
  drives   := State.critical_emit_drivesOnly hwf hlast
  toMark   := State.critical_emit_toMark hv.tickCycles_pos ls
  tickPend := State.critical_emit_tickPend s ls
  frame    := (State.critical_frame fun t => t.emitLevels_frame ls).eq_update

/-- `Emit(level, n)` in a critical region, for at least one bit period (40 R151, R155). -/
theorem State.critical_emit_level_emits {s : State} (high : Bool) {n : Nat} (hn : n ≠ 0) (hv : s.cfg.Valid)
    (hwf : storeWf 0 s.portOut = true) :
    Emits s (List.replicate n (levelOf high)) high (s.critical (State.emit · (levelOf high) n)) := by
  simp only [State.emit_eq_emitLevels]
  exact State.critical_emits hv hwf (by simp [List.getLast?_replicate, hn])

/-! ## The three operations -/

/-- Settles O25: TXBYTE emits the 11 slots of `frame`. -/
theorem txbyteEmitsTheFrame : Obligations.TxbyteEmitsTheFrame := by
  intro v s hv hwf
  have E := State.critical_emits (ls := frame v) (high := true) hv hwf rfl
  have hlength := frame_length v
  exact ⟨_, rfl, E.wire, E.line, hlength ▸ E.now, E.drives, hlength ▸ E.toMark, hlength ▸ E.tickPend, E.frame⟩

/-- Settles O26: each of the two is one `Emit` of its level. -/
theorem breakAndMabHoldTheLine : Obligations.BreakAndMabHoldTheLine := by
  intro s hv hwf
  have B := s.critical_emit_level_emits false (n := 22) (by decide) hv hwf
  have M := s.critical_emit_level_emits true (n := 2) (by decide) hv hwf
  exact ⟨⟨_, rfl, B.wire, B.line, B.now, B.drives, B.toMark, B.tickPend, B.frame⟩,
    ⟨_, rfl, M.wire, M.line, M.now, M.drives, M.toMark, M.tickPend, M.frame⟩⟩

/-! ## Between two steps -/

/-- Settles O28, by the kinds of transition: of the engine's operations only the two steps drive the line, and they leave it high; of the
host commands only the two starts drive it. -/
theorem lineStaysHighBetweenSteps : Obligations.LineStaysHighBetweenSteps := by
  intro s t _ hhigh hstep hreset hstart
  cases step_kind hstep with
  | engine i rest _ F =>
    rcases F.line with hkept | ⟨-, hdriven⟩
    · exact hkept.trans hhigh
    · exact hdriven
  | host i rest next hi he =>
    rcases (host_frame hi he).line with ⟨-, -, -, hkept, -⟩ | hbegins
    · exact hkept.trans hhigh
    · exact absurd (State.startNext_of_commandNext next hbegins) hstart
  | quiet F => exact F.line.trans hhigh
  | reset next => simp [hreset] at next

end Sys2Proof.Machine
end

section
/-! The engine's operations one by one: what TICK, SELECT, ADVANCE, BOUNDARY and RETURN answer from every state, which of them the engine's
turn runs, and the two steps as emissions that charge the budget (41 R180 to R188). -/

namespace Sys2Proof.Machine

/-! ## The operations that take no time -/

/-- In a state of the invariant whose tick source is enabled a line is selected (42 R234). -/
theorem State.Inv.pindesc_ne_none_of_tie {s : State} (h : s.Inv) (htie : s.tie = true) : s.pindesc ≠ none := by
  obtain ⟨hdir, -⟩ := h.active_pin (.inr htie)
  obtain ⟨d, hd, -⟩ := h.pindesc_some hdir
  simp [hd]

/-- Settles O29: the latency is the one that is drawn. -/
theorem tickEntersWithTheBudget : Obligations.TickEntersWithTheBudget :=
  fun s htie _ _ => ⟨fun hinv => hinv.pindesc_ne_none_of_tie htie, drawLatency s.cfg s.draws, drawLatency_le _ _, rfl⟩

/-- Settles O30, by the two conditions SELECT reads. -/
theorem selectChoosesTheStep : Obligations.SelectChoosesTheStep := by
  intro s
  simp only [exec, execSelect, costA, costB]
  refine ⟨fun hc hr => ?_, fun hc hr => ?_, fun hc hr => ?_, fun hc hr => ?_⟩
  · rw [if_pos hc, if_pos hr]
  · rw [if_pos hc, if_neg (by omega)]
  · rw [if_neg hc, if_pos hr]
  · rw [if_neg hc, if_neg (by omega)]

/-- Settles O34: a cursor that does not exceed MAXCH fits its 16 bits. -/
theorem advanceWrapsPastTheCount : Obligations.AdvanceWrapsPastTheCount := by
  intro s
  refine ⟨_, rfl, ?_⟩
  split
  · exact ⟨rfl, fun _ => ⟨rfl, rfl⟩, fun hle => by omega⟩
  · next hle =>
    have hval : (BitVec.ofNat 16 (s.cursor.toNat + 1)).toNat = s.cursor.toNat + 1 :=
      Nat.mod_eq_of_lt (Nat.lt_of_le_of_lt (Nat.not_lt.1 hle) s.maxch.isLt)
    exact ⟨rfl, fun hlt => absurd hlt hle, fun _ => ⟨hval, rfl⟩⟩

/-- Settles O35, by the mode that BOUNDARY reads. -/
theorem boundaryEndsUnlessContinuous : Obligations.BoundaryEndsUnlessContinuous := by
  intro s
  simp only [exec, execBoundary]
  refine ⟨fun hm => ?_, fun hm => ?_⟩
  · rw [if_pos hm]
  · rw [if_neg hm]; rfl

/-- Settles O36, by the mode that RETURN reads. -/
theorem returnEnablesUnlessDisabled : Obligations.ReturnEnablesUnlessDisabled := by
  intro s
  simp only [exec, execRet, State.leaveTick]
  refine ⟨fun hm => ?_, fun hm => ?_⟩
  · rw [decide_eq_false (not_not.2 hm)]
  · rw [decide_eq_true hm]

/-! ## The engine's turn -/

theorem step_of_engine_entry {s : State} {rest : List Event} {i : Instr} (ha : s.agenda = .engine :: rest) (hi : s.engineOp = some i) :
    step s = exec i (s.withAgenda rest) := by
  have hi' : (s.withAgenda rest).engineOp = some i := hi
  rw [step_of_entry ha]
  show takeEngineTurn (s.withAgenda rest) = _
  simp only [takeEngineTurn, hi']

theorem step_of_due {s : State} {i : Instr} (ha : s.agenda = []) (hi : s.engineOp = some i) : step s = exec i s :=
  (step_of_empty ha).trans (autonomous_of_due hi)

/-- Settles O37: the operation that is due is the phase's inside a tick, and TICK while one can be delivered. -/
theorem engineRunsTheSelectedOperation : Obligations.EngineRunsTheSelectedOperation := by
  intro s
  have inside : s.busy = true → s.lead = 0 → s.engineOp = some s.phase.operation :=
    fun hb hl => State.engineOp_eq_some.2 (.inl ⟨hb, hl, rfl⟩)
  have delivery : s.tie = true → s.busy = false → s.tickPend = true → s.engineOp = some .tick :=
    fun ht hb hp => State.engineOp_eq_some.2 (.inr ⟨hb, ht, hp, rfl⟩)
  exact ⟨fun hb hl ha => step_of_due ha (inside hb hl), fun ht hb hp ha => step_of_due ha (delivery ht hb hp),
    fun _ hb hl ha => step_of_engine_entry ha (inside hb hl), fun _ ht hb hp ha => step_of_engine_entry ha (delivery ht hb hp)⟩

/-! ## The two steps -/

/-- The emission of a step that costs `ls.length` of the budget; the phase is left to the caller. -/
def State.sendStep (s : State) (ls : List Level) : State :=
  ({ s with rem := s.rem - ls.length } : State).critical (State.emitLevels · ls)

theorem exec_stepA (s : State) : exec .stepA s = .next { s.sendStep stepALevels with phase := .advance } := by
  simp only [exec, execStepA, State.stepA_emission, State.sendStep, stepALevels_length, costA]

theorem exec_stepB {s : State} {v : Byte} (h : s.bufRead s.cursor.toNat = some v) :
    exec .stepB s = .next { s.sendStep (frame v) with phase := .advance } := by
  simp only [exec, execStepB, h, State.transmit_eq_emitLevels, State.sendStep, frame_length, costB]

theorem State.sendStep_frame (s : State) (ls : List Level) : EmissionFrame { s with rem := s.rem - ls.length } (s.sendStep ls) :=
  State.critical_frame fun t => t.emitLevels_frame ls

/-- What is said of the state `t` after a step of slots `ls`, which leave the line high: the budget is charged, ADVANCE is next, the line
PINDESC names is high, and nothing else changes but what time changes. -/
structure Steps (s : State) (ls : List Level) (t : State) : Prop where
  rem      : t.rem + ls.length = s.rem
  phase    : t.phase = .advance
  wire     : t.wire = s.wire ++ slots s.cfg ls
  line     : t.line = .high
  now      : t.now = s.now + ls.length * s.cfg.cpb
  drives   : DrivesOnly s t true
  toMark   : t.toMark = toMarkAfter s.cfg.tickCycles s.toMark (ls.length * s.cfg.cpb)
  tickPend : t.tickPend = pendAfter s.toMark (ls.length * s.cfg.cpb) s.tickPend
  frame    : t = { s with rem := t.rem, phase := t.phase, line := t.line, portOut := t.portOut, now := t.now, toMark := t.toMark,
                          tickPend := t.tickPend, wire := t.wire }

theorem State.sendStep_steps {s : State} {ls : List Level} (hv : s.cfg.Valid) (hwf : storeWf 0 s.portOut = true)
    (hlast : ls.getLast? = some .high) (hrem : ls.length ≤ s.rem) : Steps s ls { s.sendStep ls with phase := .advance } := by
  have E : Emits { s with rem := s.rem - ls.length } ls true (s.sendStep ls) := State.critical_emits hv hwf hlast
  have hleft : (s.sendStep ls).rem = s.rem - ls.length := (s.sendStep_frame ls).rem
  refine ⟨?_, rfl, E.wire, E.line, E.now, E.drives, E.toMark, E.tickPend, ?_⟩
  · rw [hleft]; omega
  · have hframe := congrArg (fun u : State => { u with phase := Phase.advance }) E.frame
    rw [← hleft] at hframe
    exact hframe

/-- Settles O31: STEP_A is the emission of `stepALevels`, and the byte 0x00 is nine low slots and two high ones. -/
theorem stepAEmitsBreakMabAndStartCode : Obligations.StepAEmitsBreakMabAndStartCode := by
  intro s hv hwf hrem
  have hlength := stepALevels_length
  have S := State.sendStep_steps (ls := stepALevels) hv hwf (by decide) (by rwa [hlength])
  have hlevels : stepALevels =
      List.replicate 22 .low ++ List.replicate 2 .high ++ List.replicate 9 .low ++ List.replicate 2 .high := by decide
  exact ⟨_, exec_stepA s, hlength ▸ S.rem, S.phase, hlevels ▸ S.wire, S.line, hlength ▸ S.now, S.drives, hlength ▸ S.toMark,
    hlength ▸ S.tickPend, S.frame⟩

/-- Settles O32: STEP_B is the emission of the frame of the byte at CURSOR, which is a channel. -/
theorem stepBEmitsTheChannel : Obligations.StepBEmitsTheChannel := by
  intro s hv hwf hrem hpos hle
  have hread := State.bufRead_of_channel (s := s) ⟨hpos, hle⟩
  have hlength := frame_length (Memory.read s.buf s.cursor.toNat)
  have S := State.sendStep_steps (ls := frame (Memory.read s.buf s.cursor.toNat)) hv hwf rfl (by rwa [hlength])
  exact ⟨_, _, exec_stepB hread, hread, hlength ▸ S.rem, S.phase, S.wire, S.line, hlength ▸ S.now, S.drives, hlength ▸ S.toMark,
    hlength ▸ S.tickPend, S.frame⟩

end Sys2Proof.Machine
end

section
/-! A tick with nothing on the agenda against the one procedure of 41 R189: the delivery, one turn of the procedure's loop against the
operations SELECT to BOUNDARY, and the whole loop by induction on its fuel. What the loop sends is kept as the list of its steps (none is a
STEP_A, some v a STEP_B that sends v), from which its cost, its time and its wire follow (41 R190 to R192, R199). -/

namespace Sys2Proof.Machine

/-! ## What a list of steps sends -/

/-- The slots of a step. -/
def stepLevels (st : Option Byte) : List Level := st.elim stepALevels frame

@[simp] theorem stepLevels_none : stepLevels none = stepALevels := rfl

@[simp] theorem stepLevels_some (v : Byte) : stepLevels (some v) = frame v := rfl

/-- The cost of a step: COST_A or COST_B (00 R8). -/
def stepCost (st : Option Byte) : Nat := st.elim 35 fun _ => 11

theorem stepLevels_length (st : Option Byte) : (stepLevels st).length = stepCost st := by
  cases st with
  | none => exact stepALevels_length
  | some v => exact frame_length v

theorem stepCost_pos (st : Option Byte) : 0 < stepCost st := by
  cases st with
  | none => exact Nat.succ_pos 34
  | some v => exact Nat.succ_pos 10

/-- What a list of steps takes of the budget. -/
def stepsCost (steps : List (Option Byte)) : Nat := (steps.map stepCost).sum

/-- What a list of steps puts on the wire. -/
def stepsWire (cfg : Config) (steps : List (Option Byte)) : List Seg := steps.flatMap fun st => slots cfg (stepLevels st)

@[simp] theorem stepsCost_singleton (st : Option Byte) : stepsCost [st] = stepCost st := by simp [stepsCost]

@[simp] theorem stepsWire_singleton (cfg : Config) (st : Option Byte) : stepsWire cfg [st] = slots cfg (stepLevels st) := by
  simp [stepsWire]

@[simp] theorem stepsCost_append (a b : List (Option Byte)) : stepsCost (a ++ b) = stepsCost a + stepsCost b := by simp [stepsCost]

@[simp] theorem stepsWire_append (cfg : Config) (a b : List (Option Byte)) :
    stepsWire cfg (a ++ b) = stepsWire cfg a ++ stepsWire cfg b := List.flatMap_append

/-- From `s` to `t` the steps `steps` are sent: each is charged to the budget, takes its time and puts its slots on the wire, and nothing else
is sent or drawn. -/
structure Sends (s : State) (steps : List (Option Byte)) (t : State) : Prop where
  cfg   : t.cfg = s.cfg
  draws : t.draws = s.draws
  rem   : t.rem + stepsCost steps = s.rem
  now   : t.now = s.now + stepsCost steps * s.cfg.cpb
  wire  : t.wire = s.wire ++ stepsWire s.cfg steps

theorem Sends.of_kept {s t : State} (hcfg : t.cfg = s.cfg) (hdraws : t.draws = s.draws) (hrem : t.rem = s.rem) (hnow : t.now = s.now)
    (hwire : t.wire = s.wire) : Sends s [] t :=
  ⟨hcfg, hdraws, hrem, by simp [hnow, stepsCost], by simp [hwire, stepsWire]⟩

theorem Sends.trans {s t u : State} {a b : List (Option Byte)} (h : Sends s a t) (k : Sends t b u) : Sends s (a ++ b) u where
  cfg   := k.cfg.trans h.cfg
  draws := k.draws.trans h.draws
  rem   := by have := h.rem; have := k.rem; rw [stepsCost_append]; omega
  now   := by rw [k.now, h.now, h.cfg, stepsCost_append]; ring
  wire  := by rw [k.wire, h.wire, h.cfg, stepsWire_append, List.append_assoc]

theorem State.sendStep_sends {s : State} {st : Option Byte} (hcpb : 1 ≤ s.cfg.cpb) (hrem : stepCost st ≤ s.rem) :
    Sends s [st] (s.sendStep (stepLevels st)) := by
  have F := s.sendStep_frame (stepLevels st)
  constructor
  case cfg => exact F.cfg
  case draws => exact F.draws
  case rem => rw [F.rem, stepLevels_length, stepsCost_singleton, Nat.sub_add_cancel hrem]
  case now => rw [stepsCost_singleton, ← stepLevels_length]; exact State.critical_emit_now _ _
  case wire => rw [stepsWire_singleton]; exact State.critical_emit_wire (by exact hcpb) _

/-! ## The invariant along a run -/

theorem Reaches.inv {s t : State} (h : Reaches s t) (hinv : s.Inv) : t.Inv := by
  obtain ⟨k, hk⟩ := h
  induction k generalizing s with
  | zero => cases hk; exact hinv
  | succ k ih =>
    obtain ⟨u, hu⟩ := machineNeverStops s hinv
    rw [run_succ k hu] at hk
    exact ih (stepKeepsTheInvariant s u hinv hu) hk

/-! ## One turn of the loop -/

/-- Inside a tick with nothing on the agenda, the operation of `phase` is due. -/
structure Due (phase : Phase) (u : State) : Prop where
  busy   : u.busy = true
  lead   : u.lead = 0
  phase  : u.phase = phase
  agenda : u.agenda = []

theorem Due.reaches {phase : Phase} {u t : State} (h : Due phase u) (he : exec phase.operation u = .next t) : Reaches u t :=
  .of_due h.agenda (State.engineOp_eq_some.2 (.inl ⟨h.busy, h.lead, rfl⟩)) (by rw [h.phase, he])

theorem Due.setPhase {phase : Phase} {u : State} (h : Due phase u) (phase' : Phase) : Due phase' { u with phase := phase' } :=
  { h with phase := rfl }

/-- The budget does not cover the step that is next at this cursor. -/
def State.TooShort (s : State) : Prop := s.cursor = 0 ∧ s.rem < 35 ∨ s.cursor ≠ 0 ∧ s.rem < 11

/-- The step that is next at this cursor, which the budget covers. -/
def State.Takes (s : State) : Option Byte → Prop
  | none => s.cursor = 0 ∧ 35 ≤ s.rem
  | some v => s.cursor ≠ 0 ∧ 11 ≤ s.rem ∧ s.bufRead s.cursor.toNat = some v

theorem State.Takes.cost_le {s : State} {st : Option Byte} (h : s.Takes st) : stepCost st ≤ s.rem := by
  cases st with
  | none => exact h.2
  | some v => exact h.2.1

theorem State.Inv.tooShort_or_takes {s : State} (h : s.Inv) : s.TooShort ∨ ∃ st, s.Takes st := by
  by_cases hc : s.cursor = 0
  · rcases Nat.lt_or_ge s.rem 35 with hr | hr
    · exact .inl (.inl ⟨hc, hr⟩)
    · exact .inr ⟨none, hc, hr⟩
  · rcases Nat.lt_or_ge s.rem 11 with hr | hr
    · exact .inl (.inr ⟨hc, hr⟩)
    · have hpos : s.cursor.toNat ≠ 0 := fun h0 => hc (BitVec.eq_of_toNat_eq h0)
      exact .inr ⟨some _, hc, hr, State.bufRead_of_channel ⟨Nat.one_le_iff_ne_zero.2 hpos, h.cursor_le⟩⟩

/-! ### The procedure -/

theorem tickLoop_of_tooShort {s : State} (h : s.TooShort) (fuel : Nat) : tickLoop (fuel + 1) s = some s.leaveTick := by
  rcases h with ⟨hc, hr⟩ | ⟨hc, hr⟩
  · rw [tickLoop, if_pos hc, if_pos hr]
  · rw [tickLoop, if_neg hc, if_pos hr]

/-- After a step the loop moves on, and ends there or goes round again. -/
theorem tickLoop_of_takes {s t : State} {st : Option Byte} {ended : Bool} (h : s.Takes st)
    (hmove : (s.sendStep (stepLevels st)).moveOn = (t, ended)) (fuel : Nat) :
    tickLoop (fuel + 1) s = bif ended then some t else tickLoop fuel t := by
  cases st with
  | none =>
    obtain ⟨hc, hr⟩ := h
    have hsend : ({ s with rem := s.rem - 35 } : State).critical (fun t => ((t.emit .low 22).emit .high 2).transmit 0x00) =
        s.sendStep (stepLevels none) := State.stepA_emission _
    rw [tickLoop, if_pos hc, if_neg (by omega), hsend, hmove]
    cases ended <;> rfl
  | some v =>
    obtain ⟨hc, hr, hv⟩ := h
    have hsend : ({ s with rem := s.rem - 11 } : State).transmit v = s.sendStep (stepLevels (some v)) := rfl
    rw [tickLoop, if_neg hc, if_neg (by omega), hv]
    simp only [hsend, hmove]
    cases ended <;> rfl

/-! ### The engine -/

/-- SELECT and RETURN (41 R182, R188). -/
theorem Due.reaches_leaveTick {s : State} (h : Due .select s) (hs : s.TooShort) : Reaches s s.leaveTick := by
  obtain ⟨-, hret, -, hret'⟩ := selectChoosesTheStep s
  have hselect : exec .select s = .next { s with phase := .ret } := by
    rcases hs with ⟨hc, hr⟩ | ⟨hc, hr⟩
    · exact hret hc hr
    · exact hret' hc hr
  exact (h.reaches hselect).trans ((h.setPhase .ret).reaches rfl)

/-- The phase before a step does not matter, once the step has set its own. -/
theorem State.sendStep_phase (s : State) (ls : List Level) (p : Phase) :
    ({ s with phase := p } : State).sendStep ls = { s.sendStep ls with phase := p } :=
  State.critical_emit_phase { s with rem := s.rem - ls.length } ls p

/-- SELECT and the step it chooses (41 R182 to R184). -/
theorem Due.reaches_sendStep {s : State} {st : Option Byte} (h : Due .select s) (hs : s.Takes st) :
    Reaches s { s.sendStep (stepLevels st) with phase := .advance } := by
  obtain ⟨hselectA, -, hselectB, -⟩ := selectChoosesTheStep s
  cases st with
  | none =>
    have hstep := exec_stepA { s with phase := .stepA }
    rw [State.sendStep_phase] at hstep
    exact (h.reaches (hselectA hs.1 hs.2)).trans ((h.setPhase .stepA).reaches hstep)
  | some v =>
    obtain ⟨hc, hr, hv⟩ := hs
    have hstep := exec_stepB (s := { s with phase := .stepB }) hv
    rw [State.sendStep_phase] at hstep
    exact (h.reaches (hselectB hc hr)).trans ((h.setPhase .stepB).reaches hstep)

theorem Due.sendStep {s : State} (h : Due .select s) (ls : List Level) : Due .select (s.sendStep ls) := by
  have F := s.sendStep_frame ls
  exact ⟨F.busy.trans h.busy, F.lead.trans h.lead, F.phase.trans h.phase, F.agenda.trans h.agenda⟩

/-- ADVANCE, and BOUNDARY at the end of a frame, do what the end of the loop's body does (41 R186, R187): the tick goes on at some cursor, or
ends there. `s` rests at SELECT, as the procedure leaves the phase. -/
theorem Due.moveOn_cases {s : State} (h : Due .select s) :
    (∃ c, s.moveOn = ({ s with cursor := c }, false) ∧ Reaches { s with phase := .advance } { s with cursor := c }) ∨
    (s.moveOn = (({ s with cursor := 0 } : State).endTransmission, true) ∧
      Reaches { s with phase := .advance } ({ s with cursor := 0 } : State).endTransmission) := by
  have hadvance := fun t => (h.setPhase .advance).reaches (t := t)
  have hback : ∀ c, ({ s with cursor := c, phase := .select } : State) = { s with cursor := c } := fun c => by rw [← h.phase]
  unfold State.moveOn
  by_cases hc : s.maxch.toNat < s.cursor.toNat + 1
  · have hwrap := hadvance { s with cursor := 0, phase := .boundary } (by simp only [Phase.operation, exec, execAdvance, if_pos hc])
    have hboundary : Due .boundary { s with cursor := 0, phase := .boundary } := { h with phase := rfl }
    obtain ⟨hcont, hend⟩ := boundaryEndsUnlessContinuous { s with cursor := 0, phase := .boundary }
    by_cases hm : s.mode = .continuous
    · rw [if_pos hc, if_pos hm]
      exact .inl ⟨0, rfl, hback 0 ▸ hwrap.trans (hboundary.reaches (hcont hm))⟩
    · rw [if_pos hc, if_neg hm]
      exact .inr ⟨rfl, hwrap.trans (hboundary.reaches (hend hm))⟩
  · rw [if_neg hc]
    exact .inl ⟨_, rfl, hback _ ▸ hadvance { s with cursor := _, phase := .select }
      (by simp only [Phase.operation, exec, execAdvance, if_neg hc])⟩

/-! ## The whole tick -/

/-- The loop and the engine end in the same state, by induction on the fuel: every turn of the loop but the last costs budget. -/
theorem Due.reaches_tickLoop {s : State} {fuel : Nat} (h : Due .select s) (hinv : s.Inv) (hfuel : s.rem < fuel) :
    ∃ t steps, tickLoop fuel s = some t ∧ Reaches s t ∧ Sends s steps t ∧ t.busy = false := by
  induction fuel generalizing s with
  | zero => omega
  | succ fuel ih =>
    rcases hinv.tooShort_or_takes with hshort | ⟨st, htakes⟩
    · exact ⟨_, [], tickLoop_of_tooShort hshort fuel, h.reaches_leaveTick hshort, .of_kept rfl rfl rfl rfl rfl, rfl⟩
    have hsends := State.sendStep_sends hinv.cfg_valid.cpb_pos htakes.cost_le
    have hsent := h.reaches_sendStep htakes
    have hdue := h.sendStep (stepLevels st)
    rcases hdue.moveOn_cases with ⟨c, hmove, hmoved⟩ | ⟨hmove, hmoved⟩ <;> rw [tickLoop_of_takes htakes hmove]
    · have hturn := hsent.trans hmoved
      have hcharged := hsends.rem
      have hpos := stepCost_pos st
      rw [stepsCost_singleton] at hcharged
      have hless : (s.sendStep (stepLevels st)).rem < fuel := by omega
      obtain ⟨t, steps, hloop, ht, hrest, hidle⟩ :=
        ih (s := { s.sendStep (stepLevels st) with cursor := c }) { hdue with } (hturn.inv hinv) hless
      exact ⟨t, st :: steps, hloop, hturn.trans ht, hsends.trans { hrest with }, hidle⟩
    · exact ⟨_, [st], rfl, hsent.trans hmoved, { hsends with }, rfl⟩

/-- The state after the delivery of a tick and its latency, in which the procedure's loop begins (41 R181, R189). -/
def State.tickStart (s : State) : State := { s.enterTick.elapse s.enterTick.lead with lead := 0 }

theorem State.onTick_eq (s : State) : s.onTick = tickLoop (s.cfg.budgetBits + 1) s.tickStart := rfl

theorem State.tickStart_wire (s : State) : s.tickStart.wire = s.wire ++ idleSegs s.line (drawLatency s.cfg s.draws) :=
  s.enterTick.elapse_wire_eq_idleSegs _

theorem State.tickStart_due {s : State} (ha : s.agenda = []) : Due .select s.tickStart := ⟨rfl, rfl, rfl, ha⟩

/-- The engine delivers the tick, and time passes to engine time if the latency is any cycle at all. -/
theorem reaches_tickStart {s : State} (hs : s.deliverable = true) (ha : s.agenda = []) : Reaches s s.tickStart := by
  obtain ⟨htie, hbusy, hpend⟩ := State.deliverable_iff.1 hs
  have htick : Reaches s s.enterTick := .of_due ha (State.engineOp_eq_some.2 (.inr ⟨hbusy, htie, hpend, rfl⟩)) rfl
  refine htick.trans ?_
  rcases Nat.eq_zero_or_pos s.enterTick.lead with h0 | hpos
  · have hsame : s.tickStart = s.enterTick := by rw [State.tickStart, h0, State.elapse_zero, ← h0]
    exact hsame ▸ .refl _
  · refine .of_step ?_
    rw [step_of_empty (s := s.enterTick) ha, autonomous, State.engineOp_eq_none.2 (.inl ⟨rfl, hpos⟩)]
    rfl

/-- A tick runs to the state of the procedure, and sends nothing but whole steps after its latency. -/
theorem reaches_onTick {s : State} (hinv : s.Inv) (hs : s.deliverable = true) (ha : s.agenda = []) :
    ∃ t steps, s.onTick = some t ∧ Reaches s t ∧ Sends s.tickStart steps t ∧ t.busy = false := by
  have hstart := reaches_tickStart hs ha
  obtain ⟨t, steps, hloop, ht, hsends, hidle⟩ :=
    (State.tickStart_due ha).reaches_tickLoop (hstart.inv hinv) (Nat.lt_succ_self s.cfg.budgetBits)
  exact ⟨t, steps, hloop, hstart.trans ht, hsends, hidle⟩

/-- Settles O38: the run is that of the delivery and of the loop. -/
theorem tickAgreesWithTheProcedure : Obligations.TickAgreesWithTheProcedure := by
  intro s hinv htie hbusy hpend ha
  obtain ⟨t, -, htick, ⟨k, hk⟩, -, -⟩ := reaches_onTick hinv (State.deliverable_iff.2 ⟨htie, hbusy, hpend⟩) ha
  exact ⟨k, t, htick, hk⟩

/-- Settles O39: the steps that the loop sends are charged to BUDGET_BITS, and follow the latency. -/
theorem tickEndsWithinItsBudget : Obligations.TickEndsWithinItsBudget := by
  intro s hinv htie hbusy hpend ha
  obtain ⟨t, steps, htick, ⟨k, hk⟩, S, hidle⟩ := reaches_onTick hinv (State.deliverable_iff.2 ⟨htie, hbusy, hpend⟩) ha
  have hcost : stepsCost steps ≤ s.cfg.budgetBits := Nat.le.intro ((Nat.add_comm _ _).trans S.rem)
  exact ⟨k, t, drawLatency s.cfg s.draws, steps, hk, htick, S.draws, hidle, drawLatency_le _ _, hcost, S.now, s.tickStart_wire ▸ S.wire⟩

/-- Settles O40: the loop leaves the tick in its first turn, in the state after the latency. -/
theorem zeroStepTickEmitsNothing : Obligations.ZeroStepTickEmitsNothing := by
  intro s hinv htie hbusy hpend ha hbudget
  have hshort : s.tickStart.TooShort := hbudget
  obtain ⟨k, hk⟩ :=
    (reaches_tickStart (State.deliverable_iff.2 ⟨htie, hbusy, hpend⟩) ha).trans ((State.tickStart_due ha).reaches_leaveTick hshort)
  refine ⟨k, s.tickStart.leaveTick, drawLatency s.cfg s.draws, hk, tickLoop_of_tooShort hshort _, drawLatency_le _ _, s.tickStart_wire, ?_⟩
  obtain ⟨hphase, hlead⟩ := hinv.idle_phase hbusy
  have hmode : decide (s.mode ≠ .disabled) = true := decide_eq_true ((hinv.tie_iff hbusy).1 htie)
  rw [← hmode, hphase, hlead, hbusy]
  rfl

end Sys2Proof.Machine
end

section
/-! Lifecycle control: what START and STARTSINGLE do to the registers, the direction bits and the line, what STOP and SETPIN answer, and what
holds of the output line while a transmission is on (42 R230 to R236). -/

namespace Sys2Proof.Machine

/-! ## START and STARTSINGLE -/

/-- `i` begins a transmission in mode `m` (42 R230, R231). -/
def Begins (i : Instr) (m : Mode) : Prop := (i = .start ∧ m = .continuous) ∨ (i = .startsingle ∧ m = .singleShot)

theorem exec_of_begins_without_pin {i : Instr} {m : Mode} (hi : Begins i m) {s : State} (hpin : s.pinsel = none) :
    exec i s = .next (s.raiseFault .noPinSelected) := by
  rcases hi with ⟨rfl, -⟩ | ⟨rfl, -⟩
  · simp only [exec, execStart, hpin]
  · simp only [exec, execStartsingle, hpin]

theorem exec_of_begins {i : Instr} {m : Mode} (hi : Begins i m) {s : State} {pin : PinId} (hpin : s.pinsel = some pin) :
    exec i s = .next (s.beginTransmission m pin) := by
  rcases hi with ⟨rfl, rfl⟩ | ⟨rfl, rfl⟩
  · simp only [exec, execStart, hpin]
  · simp only [exec, execStartsingle, hpin]

/-- The registers that a start sets, whether or not it drives the line; LINE, the output registers and the draws are left open. -/
theorem State.beginTransmission_eq_update (s : State) (m : Mode) (pin : PinId) :
    s.beginTransmission m pin =
      { s with mode := m, cursor := 0, pindesc := s.pinMap pin, pindir := true, tie := true, portDir := dirWith s.portDir (s.pinMap pin),
               line := (s.beginTransmission m pin).line, portOut := (s.beginTransmission m pin).portOut,
               draws := (s.beginTransmission m pin).draws } := by
  unfold State.beginTransmission
  simp only
  split <;> rfl

theorem State.beginTransmission_cursor (s : State) (m : Mode) (pin : PinId) : (s.beginTransmission m pin).cursor = 0 :=
  congrArg State.cursor (s.beginTransmission_eq_update m pin)

theorem State.beginTransmission_tie (s : State) (m : Mode) (pin : PinId) : (s.beginTransmission m pin).tie = true :=
  congrArg State.tie (s.beginTransmission_eq_update m pin)

theorem State.beginTransmission_portDir (s : State) (m : Mode) (pin : PinId) :
    (s.beginTransmission m pin).portDir = dirWith s.portDir (s.pinMap pin) :=
  congrArg State.portDir (s.beginTransmission_eq_update m pin)

/-- The direction bits that become 1 are the descriptor's, and none falls (log 6). -/
theorem dirWith_testBit {dir : List (Nat × Nat)} (hwf : storeWf 0 dir = true) (desc : Option PinDesc) (port k : Nat) :
    (storeGet 0 (dirWith dir desc) port).testBit k = true ↔
      (storeGet 0 dir port).testBit k = true ∨ ∃ d, desc = some d ∧ d.port = port ∧ d.mask.testBit k = true := by
  cases desc with
  | none => simp [dirWith]
  | some d =>
    by_cases hport : d.port = port
    · subst hport
      simp [dirWith, storeGet_storeSet_same _ _ hwf]
    · simp [dirWith, storeGet_storeSet_other _ (Ne.symm hport), hport]

/-- A line that DMXTX drives already keeps its level. -/
theorem State.beginTransmission_of_driven {s : State} {pin : PinId} (m : Mode) (hdir : s.pindir = true) (hdesc : s.pindesc = s.pinMap pin) :
    (s.beginTransmission m pin).line = s.line ∧ (s.beginTransmission m pin).portOut = s.portOut := by
  unfold State.beginTransmission
  rw [if_neg (by simp [hdir, hdesc])]
  exact ⟨rfl, rfl⟩

theorem State.setLine_drivesOnly {s : State} (high : Bool) (hwf : storeWf 0 s.portOut = true) :
    DrivesOnly s (s.setLine (levelOf high)) high :=
  ⟨fun _ _ hd hi => State.setLine_driven_bit high hwf hd hi, fun _ _ hother => State.setLine_other_bit _ hwf hother⟩

/-- Any other line is driven to a level that is drawn (42 R235). -/
theorem State.beginTransmission_of_not_driven {s : State} {pin : PinId} (m : Mode) (hwf : storeWf 0 s.portOut = true)
    (h : s.pindir = false ∨ s.pindesc ≠ s.pinMap pin) :
    (s.beginTransmission m pin).line = levelOf (Config.freeLevel s.draws) ∧
      DrivesOnly { s with pindesc := s.pinMap pin } (s.beginTransmission m pin) (Config.freeLevel s.draws) := by
  unfold State.beginTransmission
  rw [if_pos h]
  exact ⟨rfl, State.setLine_drivesOnly (s := { s with pindesc := s.pinMap pin }) _ hwf⟩

/-- Settles O11: the registers, the direction bits, and the line by whether it is driven already. -/
theorem startBeginsATransmission : Obligations.StartBeginsATransmission := by
  intro i m hi s
  refine ⟨exec_of_begins_without_pin hi, fun pin hpin hout hdir => ⟨_, exec_of_begins hi hpin, ?_, ?_, ?_, ?_⟩⟩
  · rw [State.beginTransmission_portDir]
    exact s.beginTransmission_eq_update m pin
  · intro port k
    rw [State.dirBits, State.beginTransmission_portDir]
    exact dirWith_testBit hdir _ port k
  · exact State.beginTransmission_of_driven m
  · exact fun h => ⟨_, State.beginTransmission_of_not_driven m hout h⟩

/-! ## STOP and SETPIN -/

/-- Settles O12: STOP writes TIE and MODE, and both are constants. -/
theorem stopDisables : Obligations.StopDisables := fun _ => ⟨rfl, rfl⟩

/-- A descriptor of exactly one line has exactly one bit of the port set in its mask (10 R42). -/
theorem State.oneLine_iff_existsUnique {s : State} {d : PinDesc} :
    s.oneLine d = true ↔ ∃! k, k < s.cfg.portWidth ∧ d.mask.testBit k = true := by
  have hcount : popcount s.cfg.portWidth d.mask = Nat.count (d.mask.testBit · = true) s.cfg.portWidth := by
    simp [popcount, Nat.count]
  rw [State.oneLine, beq_iff_eq, hcount, Nat.count_eq_card_filter_range, Finset.card_eq_one_iff_existsUnique]
  simp

theorem State.pinValid_iff_existsUnique {s : State} {pin : PinId} :
    s.pinValid pin = true ↔ ∃ d, s.pinMap pin = some d ∧ ∃! k, k < s.cfg.portWidth ∧ d.mask.testBit k = true := by
  simp only [State.pinValid_iff, State.oneLine_iff_existsUnique]

theorem execSetpin_of_active {s : State} (pin : PinId) (h : s.mode ≠ .disabled ∨ s.busy = true) :
    execSetpin pin s = .next (s.raiseFault .pinChangeWhileActive) := by
  rw [execSetpin, if_pos h]

theorem execSetpin_of_idle {s : State} (pin : PinId) (hmode : s.mode = .disabled) (hbusy : s.busy = false) :
    execSetpin pin s = .next (if s.pinValid pin then { s with pinsel := some pin } else s.raiseFault .invalidPin) := by
  rw [execSetpin, if_neg (by simp [hmode, hbusy])]

/-- Settles O13, by the two checks of SETPIN in their order. -/
theorem setpinRecordsAOneLinePin : Obligations.SetpinRecordsAOneLinePin := by
  intro pin s
  refine ⟨execSetpin_of_active pin, fun hmode hbusy hvalid => ?_, fun hmode hbusy hinvalid => ?_⟩
  · exact (execSetpin_of_idle pin hmode hbusy).trans (by rw [if_pos (State.pinValid_iff_existsUnique.2 hvalid)])
  · exact (execSetpin_of_idle pin hmode hbusy).trans (by rw [if_neg (State.pinValid_iff_existsUnique.not.2 hinvalid)]; rfl)

/-! ## While a transmission is on -/

/-- Settles O14, by the kinds of transition: only a start writes the two, and it writes what the invariant says they hold already. -/
theorem pinIsFixedWhileActive : Obligations.PinIsFixedWhileActive := by
  intro s t hinv hactive hstep hreset
  cases step_kind hstep with
  | engine i rest _ F => exact ⟨F.pindesc, F.pindir⟩
  | host i rest _ hi he =>
    rcases (host_frame hi he).pindesc with hkept | ⟨pin, hpin, hdesc, hdir, -⟩
    · exact hkept
    · obtain ⟨hdir', pin', hpin', hdesc'⟩ := hinv.active_pin (.inl hactive)
      obtain rfl : pin = pin' := Option.some.inj (hpin.symm.trans hpin')
      exact ⟨hdesc.trans hdesc'.symm, hdir.trans hdir'.symm⟩
  | quiet F => exact ⟨F.pindesc, F.pindir⟩
  | reset next => simp [hreset] at next

/-- A start is taken only where no step has yet to move the cursor; between ticks the phase rests at SELECT (log 10). -/
theorem State.Inv.phase_of_start_taken {s : State} (h : s.Inv) {i : Instr} {m : Mode} (hi : Begins i m) (hd : s.defers i = false) :
    s.phase ≠ .stepB ∧ s.phase ≠ .advance := by
  cases hb : s.busy with
  | false => simp [(h.idle_phase hb).1]
  | true =>
    have hstart : i = .start ∨ i = .startsingle := hi.imp And.left And.left
    rw [← not_or]
    exact fun hphase => Bool.false_ne_true (hd.symm.trans (State.defers_iff.2 ⟨hb, .inl ⟨hstart, hphase⟩⟩))

/-- The transition that takes a start is the beginning of a transmission on the recorded pin. -/
theorem step_of_startNext {s : State} {pin : PinId} (hpin : s.pinsel = some pin) (h : s.startNext) :
    ∃ i m rest, Begins i m ∧ s.defers i = false ∧ step s = .next ((s.withAgenda rest).beginTransmission m pin) := by
  obtain ⟨w, rest, ha, hdec, hd⟩ | ⟨w, rest, ha, hdec, hd⟩ := h
  · have hi : Begins .start .continuous := .inl ⟨rfl, rfl⟩
    exact ⟨_, _, rest, hi, hd, (step_of_taken ha hdec hd).trans (exec_of_begins hi hpin)⟩
  · have hi : Begins .startsingle .singleShot := .inr ⟨rfl, rfl⟩
    exact ⟨_, _, rest, hi, hd, (step_of_taken ha hdec hd).trans (exec_of_begins hi hpin)⟩

/-- Settles O15: the start sets CURSOR and TIE, and keeps BUSY, the wire trace and the phase, which is that of no step in progress. -/
theorem restartBeginsANewFrame : Obligations.RestartBeginsANewFrame := by
  intro s t hinv hsome hnext hstep
  obtain ⟨pin, hpin⟩ := Option.ne_none_iff_exists'.1 hsome
  obtain ⟨i, m, rest, hi, hd, hbegin⟩ := step_of_startNext hpin hnext
  cases hstep.symm.trans hbegin
  have K := (s.withAgenda rest).beginTransmission_hostKeeps m pin
  obtain ⟨hstepB, hadvance⟩ := hinv.phase_of_start_taken hi hd
  exact ⟨State.beginTransmission_cursor _ m pin, State.beginTransmission_tie _ m pin, K.phase.trans_ne hstepB, K.phase.trans_ne hadvance,
    K.busy, State.beginTransmission_wire _ m pin⟩

end Sys2Proof.Machine
end

section
/-! The channel buffer accessors: what WRITE and SETMAX store, the words READ, READMAX and STATUS respond, and READ after WRITE (43 R260
to R265). -/

namespace Sys2Proof.Machine

/-! ## WRITE and SETMAX -/

theorem clamp_bounds {lo hi : Int} (x : Int) (h : lo ≤ hi) : lo ≤ clamp x lo hi ∧ clamp x lo hi ≤ hi := by
  unfold clamp
  split_ifs <;> omega

theorem clampByte_toNat (val : Int) : ((clampByte val).toNat : Int) = clamp val 0 255 := by
  obtain ⟨hlo, hhi⟩ := clamp_bounds val (show (0 : Int) ≤ 255 by decide)
  rw [clampByte, BitVec.toNat_ofNat, Nat.mod_eq_of_lt (by omega), Int.toNat_of_nonneg hlo]

theorem State.clampCount_toNat (s : State) (ch : Int) : ((s.clampCount ch).toNat : Int) = clamp ch 1 s.cfg.capacity.size := by
  obtain ⟨hpos, -⟩ := capacity_bounds s.cfg.capacity
  obtain ⟨hlo, hhi⟩ := clamp_bounds (lo := 1) (hi := s.cfg.capacity.size) ch (by omega)
  rw [State.clampCount, toNat_ofNat_of_le_capacity (c := s.cfg.capacity) (by omega), Int.toNat_of_nonneg (by omega)]

/-- What WRITE does in range: the byte is stored, and the count becomes at least the channel (43 R260). -/
def State.writeChannel (s : State) (c : Nat) (v : Byte) : State :=
  { s.bufWrite c v with maxch := BitVec.ofNat 16 (max s.maxch.toNat c) }

theorem State.writeChannel_maxch_toNat {s : State} {c : Nat} (v : Byte) (h : c ≤ s.cfg.capacity.size) :
    (s.writeChannel c v).maxch.toNat = max s.maxch.toNat c := by
  obtain ⟨-, hsize⟩ := capacity_bounds s.cfg.capacity
  have hmax := s.maxch.isLt
  exact (BitVec.toNat_ofNat _ _).trans (Nat.mod_eq_of_lt (by omega))

theorem State.writeChannel_read_same {s : State} (c : Nat) (v : Byte) (hwf : Memory.wf s.buf = true) :
    Memory.read (s.writeChannel c v).buf c = v :=
  Memory.read_write_same c v hwf

theorem execWrite_of_channel {s : State} {ch : Int} (val : Int) (h : 1 ≤ ch ∧ ch ≤ s.cfg.capacity.size) :
    execWrite ch val s = .next (s.writeChannel ch.toNat (clampByte val)) := by
  have hcount :
      (if (s.maxch.toNat : Int) < ch then BitVec.ofNat 16 ch.toNat else s.maxch) =
        BitVec.ofNat 16 (max s.maxch.toNat ch.toNat) := by
    split_ifs with hlt
    · rw [Nat.max_eq_right (by omega)]
    · rw [Nat.max_eq_left (by omega), BitVec.ofNat_toNat, BitVec.setWidth_eq]
  rw [execWrite, if_pos (State.channelExists_iff.2 h), hcount, State.writeChannel]

theorem execWrite_of_no_channel {s : State} {ch : Int} (val : Int) (h : ¬ (1 ≤ ch ∧ ch ≤ s.cfg.capacity.size)) :
    execWrite ch val s = .next s := by
  rw [execWrite, if_neg (mt State.channelExists_iff.1 h)]

/-- Settles O4, by the channel test of WRITE. -/
theorem writeStoresClampedByte : Obligations.WriteStoresClampedByte := by
  intro ch val s hwf
  refine ⟨fun hpos hle => ?_, fun hout => execWrite_of_no_channel val (by omega)⟩
  have hc : 1 ≤ ch.toNat ∧ ch.toNat ≤ s.cfg.capacity.size := by omega
  have he := execWrite_of_channel val ⟨hpos, hle⟩
  have hread : (s.writeChannel ch.toNat (clampByte val)).bufRead ch.toNat = some (clampByte val) :=
    (State.bufRead_of_channel (s := s.writeChannel _ _) hc).trans (congrArg some (State.writeChannel_read_same _ _ hwf))
  exact ⟨_, _, he, hread, clampByte_toNat val, fun c hne => execWrite_bufRead_other (by omega) he,
    State.writeChannel_maxch_toNat _ hc.2, rfl⟩

/-- Settles O5: the clamped count fits the register. -/
theorem setmaxClampsTheCount : Obligations.SetmaxClampsTheCount :=
  fun ch s => ⟨_, rfl, s.clampCount_toNat ch, rfl⟩

/-! ## READ and READMAX -/

theorem execRead_of_channel {s : State} {ch : Int} (h : 1 ≤ ch ∧ ch ≤ s.cfg.capacity.size) :
    execRead ch s = .next (s.respond ((Memory.read s.buf ch.toNat).setWidth 32)) := by
  rw [execRead, if_pos (State.channelExists_iff.2 h)]

theorem execRead_of_no_channel {s : State} {ch : Int} (h : ¬ (1 ≤ ch ∧ ch ≤ s.cfg.capacity.size)) :
    execRead ch s = .next (s.raiseFault .readOutOfRange) := by
  rw [execRead, if_neg (mt State.channelExists_iff.1 h)]

/-- Settles O6, by the channel test of READ. -/
theorem readRespondsTheByte : Obligations.ReadRespondsTheByte := by
  intro ch s
  refine ⟨fun hpos hle => ⟨_, State.bufRead_of_channel (by omega), ?_⟩, fun hout => execRead_of_no_channel (by omega)⟩
  rw [BitVec.ofNat_toNat]
  exact execRead_of_channel ⟨hpos, hle⟩

/-- Settles O7: the response is MAXCH at the width of a word. -/
theorem readmaxRespondsTheCount : Obligations.ReadmaxRespondsTheCount := by
  intro s
  rw [BitVec.ofNat_toNat]
  rfl

/-- A byte that needs no saturation comes back as it was given (43 R265). -/
theorem setWidth_clampByte {v : Int} (h : 0 ≤ v ∧ v ≤ 255) : (clampByte v).setWidth 32 = BitVec.ofInt 32 v := by
  have hclamp : clamp v 0 255 = v := by rw [clamp, if_neg (by omega), if_neg (by omega)]
  rw [← BitVec.ofNat_toNat, ← BitVec.ofInt_natCast, clampByte_toNat, hclamp]

/-- Settles O9: READ and READMAX in the state that WRITE answers. -/
theorem writeThenReadGivesTheValue : Obligations.WriteThenReadGivesTheValue := by
  intro c v s hwf hpos hle hv0 hv255
  have hread := State.writeChannel_read_same c.toNat (clampByte v) hwf
  have hcount := State.writeChannel_maxch_toNat (clampByte v) (show c.toNat ≤ s.cfg.capacity.size by omega)
  refine ⟨_, _, _, _, execWrite_of_channel v ⟨hpos, hle⟩,
    execRead_of_channel (s := s.writeChannel c.toNat (clampByte v)) ⟨hpos, hle⟩, ?_, rfl, rfl, ?_⟩
  · rw [State.respond_responses, hread, setWidth_clampByte ⟨hv0, hv255⟩]
    rfl
  · rw [BitVec.toNat_setWidth_of_le (by decide), hcount]
    omega

/-! ## STATUS -/

theorem bitWord_shiftLeft_getLsbD (b : Bool) {i : Nat} (k : Nat) (hi : i < 32) :
    (bitWord b <<< k).getLsbD i = (decide (i = k) && b) := by
  have hbit : (bitWord b).getLsbD (i - k) = (decide (i - k = 0) && b) := by cases b <;> simp [bitWord]
  rw [BitVec.getLsbD_shiftLeft, hbit]
  rcases Nat.lt_trichotomy i k with hlt | rfl | hgt
  · simp [hlt, Nat.ne_of_lt hlt]
  · simp [hi]
  · simp [Nat.ne_of_gt hgt, Nat.sub_ne_zero_of_lt hgt]

/-- The STATUS word bit by bit, as 43 R264 lays out its fields. -/
theorem State.statusWord_getLsbD (s : State) {i : Nat} (hi : i < 32) :
    s.statusWord.getLsbD i =
      (decide (16 ≤ i) && s.cursor.getLsbD (i - 16) || decide (i = 4) && s.tickPend || decide (i = 3) && s.busy ||
        decide (i = 2) && s.tie || s.mode.code.getLsbD i) := by
  have hcursor : (s.cursor.setWidth 32 <<< 16).getLsbD i = (decide (16 ≤ i) && s.cursor.getLsbD (i - 16)) := by
    rcases Nat.lt_or_ge i 16 with hlt | hge
    · simp [hlt]
    · simp [hge, hi]
  have hmode : (s.mode.code.setWidth 32).getLsbD i = s.mode.code.getLsbD i := by simp [hi]
  simp only [State.statusWord, BitVec.getLsbD_or, bitWord_shiftLeft_getLsbD _ _ hi, hcursor, hmode]

theorem State.statusWord_mode (s : State) : s.statusWord.extractLsb' 0 2 = s.mode.code := by
  refine BitVec.eq_of_getLsbD_eq fun i hi => ?_
  rw [BitVec.getLsbD_extractLsb', State.statusWord_getLsbD s (by omega)]
  simp [hi, show ¬ 16 ≤ i by omega, show i ≠ 4 by omega, show i ≠ 3 by omega, show i ≠ 2 by omega]

/-- MODE ends below bit 2, and none of the one-bit fields lies above bit 4. -/
theorem State.statusWord_getLsbD_high (s : State) {i : Nat} (h5 : 5 ≤ i) (hi : i < 32) :
    s.statusWord.getLsbD i = (decide (16 ≤ i) && s.cursor.getLsbD (i - 16)) := by
  rw [State.statusWord_getLsbD s hi, BitVec.getLsbD_of_ge s.mode.code i (by omega)]
  simp [show i ≠ 4 by omega, show i ≠ 3 by omega, show i ≠ 2 by omega]

/-- Settles O8, field by field. -/
theorem statusWordHasItsFields : Obligations.StatusWordHasItsFields := by
  intro s
  refine ⟨s.statusWord, rfl, ?mode, ?tie, ?busy, ?tickPend, ?reserved, ?cursor⟩
  case mode =>
    rw [State.statusWord_mode]
    cases s.mode <;> rfl
  case tie => rw [State.statusWord_getLsbD s (by decide)]; simp
  case busy => rw [State.statusWord_getLsbD s (by decide)]; simp
  case tickPend => rw [State.statusWord_getLsbD s (by decide)]; simp
  case reserved =>
    refine BitVec.eq_of_getLsbD_eq fun i hi => ?_
    rw [BitVec.getLsbD_extractLsb', State.statusWord_getLsbD_high s (by omega) (by omega)]
    simp [show ¬ 16 ≤ 5 + i by omega]
  case cursor =>
    refine BitVec.eq_of_getLsbD_eq fun i hi => ?_
    rw [BitVec.getLsbD_extractLsb', State.statusWord_getLsbD_high s (by omega) (by omega)]
    simp [hi]

end Sys2Proof.Machine
end

section
/-! The tick source: its closed form against the source of 60 R296 cycle by cycle, and its marks, taken from the agenda or waited for by an
idle block. -/

namespace Sys2Proof.Machine

/-! ## The closed form -/

/-- A mark falls inside one cycle exactly when it is 0 cycles away. -/
theorem tickSourceCycle_eq (period toMark : Nat) (pend : Bool) :
    tickSourceCycle period (pend, toMark) = (pendAfter toMark 1 pend, toMarkAfter period toMark 1) := by
  unfold tickSourceCycle pendAfter toMarkAfter
  rcases Nat.eq_zero_or_pos toMark with rfl | hpos
  · simp
  · simp [show toMark ≠ 0 by omega, show 1 ≤ toMark by omega]

/-- Settles O43, by induction on the number of cycles. -/
theorem tickSourceIsCycleByCycle : Obligations.TickSourceIsCycleByCycle := by
  intro period toMark n pend hperiod
  induction n with
  | zero => rw [pendAfter_zero, toMarkAfter_zero, Function.iterate_zero_apply]
  | succ n ih => rw [Function.iterate_succ_apply', ← ih, tickSourceCycle_eq, pendAfter_add, toMarkAfter_add hperiod]

/-! ## Marks -/

/-- Settles O46: the entry reads whether the mark falls on this cycle, and nothing else. -/
theorem dueMarkSetsPending : Obligations.DueMarkSetsPending := by
  intro s rest ha
  rw [step_of_entry ha]
  simp only [takeEntry]
  refine ⟨fun hdue => ?_, fun hlater => ?_⟩
  · rw [if_pos hdue]; rfl
  · rw [if_neg hlater]

/-- Between ticks the engine has nothing to do but to deliver a tick (60 R297). -/
theorem State.engineOp_eq_none_of_idle {s : State} (hb : s.busy = false) (h : s.tie = false ∨ s.tickPend = false) : s.engineOp = none := by
  refine State.engineOp_eq_none.2 (.inr ⟨hb, ?_⟩)
  rcases h with h | h <;> simp [State.deliverable, h]

theorem step_of_not_due {s : State} (ha : s.agenda = []) (hnone : s.engineOp = none) : step s = .next s.passToNext := by
  rw [step_of_empty ha]
  simp only [autonomous, hnone]

theorem State.passToNext_of_idle {s : State} (hb : s.busy = false) : s.passToNext = (s.elapse s.toMark).takeMark := by
  simp [State.passToNext, hb]

theorem State.elapse_takeMark_eq_update (s : State) (n : Nat) :
    (s.elapse n).takeMark =
      { s with now := s.now + n, tickPend := true, toMark := s.cfg.tickCycles, wire := s.wire ++ idleSegs s.line n } := by
  rw [← s.elapse_wire_eq_idleSegs]
  rfl

/-- Settles O47: no operation is due, so time passes to the mark. -/
theorem idleBlockWaitsForTheMark : Obligations.IdleBlockWaitsForTheMark := by
  intro s ha hb hsource
  rw [step_of_not_due ha (State.engineOp_eq_none_of_idle hb hsource), State.passToNext_of_idle hb, State.elapse_takeMark_eq_update]

end Sys2Proof.Machine
end

section
/-! The tick interrupt over all transitions: where a tick begins and ends, and that no time passes before a delivery that is due (60 R297,
R301). -/

namespace Sys2Proof.Machine

/-! ## The beginning and the end of a tick -/

theorem Phase.operation_injective : Function.Injective Phase.operation := by
  intro p q
  cases p <;> cases q <;> simp [Phase.operation]

/-- Between ticks the engine's only operation is the delivery (41 R181). -/
theorem State.eq_tick_of_engineOp {s : State} {i : Instr} (hi : s.engineOp = some i) (hb : s.busy = false) :
    i = .tick ∧ s.tie = true ∧ s.tickPend = true := by
  rcases State.engineOp_eq_some.1 hi with ⟨hbusy, -⟩ | ⟨-, htie, hpend, rfl⟩
  · simp [hb] at hbusy
  · exact ⟨rfl, htie, hpend⟩

/-- Inside a tick the engine's operation is the one its phase names (41 R180). -/
theorem State.eq_operation_of_engineOp {s : State} {i : Instr} (hi : s.engineOp = some i) (hb : s.busy = true) : i = s.phase.operation := by
  rcases State.engineOp_eq_some.1 hi with ⟨-, -, rfl⟩ | ⟨hidle, -⟩
  · rfl
  · simp [hb] at hidle

theorem State.phase_of_engineOp {s : State} {p : Phase} (hi : s.engineOp = some p.operation) (hb : s.busy = true) : s.phase = p :=
  Phase.operation_injective (State.eq_operation_of_engineOp hi hb).symm

theorem Phase.operation_ne_tick (p : Phase) : p.operation ≠ .tick := by cases p <;> simp [Phase.operation]

/-- BUSY rises only by the delivery of a tick, by the kinds of transition. -/
theorem step_enters_tick {s t : State} (hstep : step s = .next t) (hb : s.busy = false) (hbusy : t.busy = true) :
    s.tie = true ∧ s.tickPend = true ∧ ∃ rest, t = (s.withAgenda rest).enterTick := by
  have kept : t.busy ≠ s.busy := by simp [hb, hbusy]
  cases step_kind hstep with
  | engine i rest next F =>
    obtain ⟨rfl, htie, hpend⟩ := State.eq_tick_of_engineOp next.1 hb
    rcases F.busy.resolve_left kept with ⟨-, hentry⟩ | hret | ⟨hboundary, -⟩
    · exact ⟨htie, hpend, rest, hentry⟩
    · cases hret
    · cases hboundary
  | host i rest _ hi he => exact absurd (host_keeps hi he).busy kept
  | quiet F => exact absurd F.busy kept
  | reset _ after rest eq =>
    subst eq
    cases hbusy

/-- Settles O44: BUSY rises by the delivery of a tick, and falls only by the writers of O58, which its phase names. -/
theorem busyRisesOnlyByDelivery : Obligations.BusyRisesOnlyByDelivery := by
  intro s t hstep
  refine ⟨fun hb hbusy => ?_, fun hb hbusy hreset => ?_⟩
  · obtain ⟨htie, hpend, rest, rfl⟩ := step_enters_tick hstep hb hbusy
    exact ⟨htie, hpend, rfl, rfl, rfl, rfl⟩
  · obtain ⟨-, writers, -⟩ := tickStateChangesOnlyByItsWriters s t hstep hreset
    rcases writers (by simp [hb, hbusy]) with ⟨htick, -⟩ | ⟨hret, -⟩ | ⟨⟨hboundary, -⟩, hmode⟩
    · exact absurd (State.eq_operation_of_engineOp htick hb).symm (Phase.operation_ne_tick _)
    · exact .inl (State.phase_of_engineOp (p := .ret) hret hb)
    · exact .inr ⟨State.phase_of_engineOp (p := .boundary) hboundary hb, hmode⟩

/-! ## A delivery that is due -/

/-- A delivery takes no time, whatever its latency (41 R181). -/
theorem engine_keeps_now_between_ticks {s t : State} {i : Instr} (hi : s.engineOp = some i) (hb : s.busy = false)
    (he : exec i s = .next t) : t.now = s.now := by
  obtain ⟨rfl, -, -⟩ := State.eq_tick_of_engineOp hi hb
  cases he
  rfl

theorem State.passTime_of_deliverable {s : State} (h : s.deliverable = true) (n : Nat) : (s.passTime n).now = s.now := by
  simp [State.passTime, State.idleLimit, h]

/-- Settles O45, by the kinds of transition: an operation is due, and no cycle may pass before it. -/
theorem noTimePassesADueDelivery : Obligations.NoTimePassesADueDelivery := by
  intro s t htie hb hpend hstep hreset
  have hdue : s.engineOp = some .tick := State.engineOp_eq_some.2 (.inr ⟨hb, htie, hpend, rfl⟩)
  rcases step_cases hstep with ⟨i, ⟨hi, -⟩, he | ⟨rest, -, he⟩⟩ | ⟨w, i, rest, -, hdec, -, he⟩ | ⟨w, r, rest, -, -, rfl⟩ |
    ⟨hnone, -, -⟩ | ⟨e, rest, -, -, rfl⟩ | ⟨rest, -, -, rfl⟩ | ⟨n, rest, -, rfl⟩ | ⟨n, rest, hagenda, -⟩
  · exact engine_keeps_now_between_ticks hi hb he
  · exact engine_keeps_now_between_ticks (s := s.withAgenda rest) hi hb he
  · exact (host_keeps_wire_and_now (s := s.withAgenda rest) (decode_isHost hdec) he).2
  · rfl
  · simp [hdue] at hnone
  · rfl
  · rfl
  · exact State.passTime_of_deliverable (s := s.withAgenda rest) (State.deliverable_iff.2 ⟨htie, hb, hpend⟩) n
  · simp [State.resetNext, hagenda] at hreset

end Sys2Proof.Machine
end

section
/-! The block at rest, and who records a fault: a quiescent block is woken by a start only (60 R309), and FAULTS is the host's to change
(60 R290, R302). -/

namespace Sys2Proof.Machine

/-! ## The quiescent block -/

/-- From `s` to `t` what makes a block quiescent is kept, and so are its line and its cursor. -/
structure StaysQuiet (s t : State) : Prop where
  mode    : t.mode = s.mode
  tie     : t.tie = s.tie
  busy    : t.busy = s.busy
  line    : t.line = s.line
  portOut : t.portOut = s.portOut
  cursor  : t.cursor = s.cursor

theorem QuietFrame.staysQuiet {s t : State} (h : QuietFrame s t) (hout : t.portOut = s.portOut) : StaysQuiet s t :=
  ⟨h.mode, h.tie, h.busy, h.line, hout, h.cursor⟩

/-- STOP writes what a quiescent block holds already; of the other host commands only the two starts write any of it. -/
theorem host_staysQuiet {s t : State} {i : Instr} (hm : s.mode = .disabled) (htie : s.tie = false) (hi : i.isHost = true)
    (hstart : ¬ (i = .start ∨ i = .startsingle)) (he : exec i s = .next t) : StaysQuiet s t := by
  by_cases hstop : i = .stop
  · subst hstop
    cases he
    exact ⟨hm.symm, htie.symm, rfl, rfl, rfl, rfl⟩
  · have F := host_frame hi he
    have hwriter : ¬ (i = .start ∨ i = .startsingle ∨ i = .stop) := by tauto
    obtain ⟨hcursor, -, -, hline, hout, -⟩ := F.line.resolve_right hstart
    exact ⟨F.mode.resolve_right hwriter, F.tie.resolve_right hwriter, (host_keeps hi he).busy, hline, hout, hcursor⟩

/-- By the kinds of transition: the engine has no operation to run. -/
theorem step_staysQuiet {s t : State} (hm : s.mode = .disabled) (htie : s.tie = false) (hb : s.busy = false) (hstep : step s = .next t)
    (hreset : s.resetNext = false) (hstart : ¬ s.startNext) : StaysQuiet s t := by
  rcases step_cases hstep with ⟨i, ⟨hi, -⟩, -⟩ | ⟨w, i, rest, ha, hdec, hd, he⟩ | ⟨w, r, rest, -, -, rfl⟩ | ⟨-, -, rfl⟩ |
    ⟨e, rest, -, -, rfl⟩ | ⟨rest, -, -, rfl⟩ | ⟨n, rest, -, rfl⟩ | ⟨n, rest, ha, -⟩
  · simp [State.engineOp_eq_none_of_idle hb (.inl htie)] at hi
  · have hother : ¬ (i = .start ∨ i = .startsingle) := fun hi => hstart (State.startNext_of_commandNext ⟨w, rest, ha, hdec, hd⟩ hi)
    have Q := host_staysQuiet (s := s.withAgenda rest) hm htie (decode_isHost hdec) hother he
    exact ⟨Q.mode, Q.tie, Q.busy, Q.line, Q.portOut, Q.cursor⟩
  · constructor <;> rfl
  · exact s.passToNext_quiet.staysQuiet s.passToNext_portOut
  · constructor <;> rfl
  · constructor <;> rfl
  · constructor <;> rfl
  · simp [State.resetNext, ha] at hreset

/-- Settles O16: all that a quiescent block keeps has the value it had. -/
theorem onlyStartWakesTheQuietBlock : Obligations.OnlyStartWakesTheQuietBlock := by
  intro s t hm htie hb hstep hreset hstart
  have Q := step_staysQuiet hm htie hb hstep hreset hstart
  exact ⟨Q.mode.trans hm, Q.tie.trans htie, Q.busy.trans hb, Q.line, Q.portOut, Q.cursor⟩

/-! ## Faults -/

theorem State.passToNext_faults (s : State) : s.passToNext.faults = s.faults := by
  unfold State.passToNext
  split <;> rfl

/-- Settles O53, by the kinds of transition: all but the taking of a word and the reset keep FAULTS. -/
theorem engineRecordsNoFault : Obligations.EngineRecordsNoFault := by
  intro s t hstep hfaults
  rcases step_cases hstep with ⟨i, ⟨hi, -⟩, he | ⟨rest, -, he⟩⟩ | ⟨w, i, rest, ha, -⟩ | ⟨w, r, rest, ha, -⟩ | ⟨-, -, rfl⟩ |
    ⟨e, rest, -, -, rfl⟩ | ⟨rest, -, -, rfl⟩ | ⟨n, rest, -, rfl⟩ | ⟨n, rest, ha, -⟩
  · exact absurd (engine_frame hi he).faults hfaults
  · exact absurd (engine_frame (s := s.withAgenda rest) hi he).faults hfaults
  · exact ⟨_, rest, ha, .inl ⟨w, rfl⟩⟩
  · exact ⟨_, rest, ha, .inl ⟨w, rfl⟩⟩
  · exact absurd s.passToNext_faults hfaults
  · exact absurd rfl hfaults
  · exact absurd rfl hfaults
  · exact absurd rfl hfaults
  · exact ⟨_, rest, ha, .inr ⟨n, rfl⟩⟩

end Sys2Proof.Machine
end

section
/-! The platform's reset: the table it leaves from any state, and where it cuts the waveform of a step in progress (70 R330, R332). -/

namespace Sys2Proof.Machine

/-! ## The state after reset -/

/-- The empty buffer holds 0 at every channel, and RESET_MAX_CHANNEL fits its register. -/
theorem State.resetWith_resetTable {cfg : Config} (draws : Nat) (hv : cfg.Valid) : (State.resetWith cfg draws).ResetTable cfg := by
  constructor
  case buf => exact fun c hpos hle => State.bufRead_of_channel ⟨hpos, hle⟩
  case maxch => exact toNat_ofNat_of_le_capacity hv.resetMaxChannel_le
  case tickPhase => exact Nat.mod_lt _ hv.tickCycles_pos
  all_goals rfl

/-- The wire trace, the responses and the agenda, which the reset keeps, are no elements of the table (log 8). -/
theorem State.resetNow_resetTable {s : State} (after : Nat) (hv : s.cfg.Valid) : (s.resetNow after).ResetTable s.cfg :=
  { State.resetWith_resetTable s.draws hv with }

theorem step_of_reset {s : State} {after : Nat} {rest : List Event} (ha : s.agenda = .reset after :: rest) :
    step s = .next ((s.withAgenda rest).resetNow after) :=
  step_of_entry ha

/-- Settles O1; the chosen configuration is checked parameter by parameter. -/
theorem resetStateIsTheTable : Obligations.ResetStateIsTheTable := by
  have hchosen : Config.chosen.Valid := by constructor <;> decide
  exact ⟨fun _ draws hv => State.resetWith_resetTable draws hv, hchosen, rfl⟩

/-- Settles O2: the state at the reset is read for its configuration and its number of draws only. -/
theorem resetEventLeavesTheTable : Obligations.ResetEventLeavesTheTable :=
  fun s after rest hv ha => ⟨_, step_of_reset ha, State.resetNow_resetTable (s := s.withAgenda rest) after hv, rfl⟩

/-- Settles O54, by the lemma that the reset's case of O55 rests on. -/
theorem invariantHoldsAtReset : Obligations.InvariantHoldsAtReset :=
  fun _ draws hv => State.resetWith_inv draws hv

/-! ## A piece of the wire trace cut short -/

theorem wireCycles_cons (g : Seg) (w : List Seg) : wireCycles (g :: w) = g.cycles + wireCycles w := by
  simp [wireCycles]

theorem wireCycles_slots (cfg : Config) (ls : List Level) : wireCycles (slots cfg ls) = ls.length * cfg.cpb := by
  simp [wireCycles, slots, Function.comp_def]

theorem takeCycles_zero (w : List Seg) : takeCycles 0 w = [] := by cases w <;> simp [takeCycles]

/-- A cut inside the first segment keeps its beginning. -/
theorem takeCycles_cons_of_lt {n : Nat} {g : Seg} (w : List Seg) (hpos : n ≠ 0) (h : n < g.cycles) :
    takeCycles n (g :: w) = [⟨g.level, n⟩] := by
  simp [takeCycles, hpos, h]

/-- A cut behind the first segment keeps it whole. -/
theorem takeCycles_cons_of_le {n : Nat} {g : Seg} (w : List Seg) (hpos : n ≠ 0) (h : g.cycles ≤ n) :
    takeCycles n (g :: w) = g :: takeCycles (n - g.cycles) w := by
  simp [takeCycles, hpos, Nat.not_lt.2 h]

/-- By induction on the segments; the hypothesis says that the cut is not past the end. -/
theorem wireCycles_takeCycles {w : List Seg} {n : Nat} (h : n ≤ wireCycles w) : wireCycles (takeCycles n w) = n := by
  induction w generalizing n with
  | nil => exact (Nat.le_zero.1 h).symm
  | cons g w ih =>
    rw [wireCycles_cons] at h
    rcases Nat.eq_zero_or_pos n with rfl | hpos
    · rw [takeCycles_zero, wireCycles_nil]
    rcases Nat.lt_or_ge n g.cycles with hlt | hle
    · rw [takeCycles_cons_of_lt w hpos.ne' hlt, wireCycles_cons, wireCycles_nil, Nat.add_zero]
    · rw [takeCycles_cons_of_le w hpos.ne' hle, wireCycles_cons, ih (by omega)]
      omega

/-- The cycles before the cut keep their levels. -/
theorem levelAt_takeCycles {w : List Seg} {n k : Nat} (h : k < n) : levelAt (takeCycles n w) k = levelAt w k := by
  induction w generalizing n k with
  | nil => rfl
  | cons g w ih =>
    have hpos : n ≠ 0 := Nat.ne_zero_of_lt h
    rcases Nat.lt_or_ge n g.cycles with hlt | hle
    · simp [takeCycles_cons_of_lt w hpos hlt, levelAt, h, h.trans hlt]
    · rw [takeCycles_cons_of_le w hpos hle]
      simp only [levelAt]
      split
      · rfl
      · exact ih (by omega)

/-! ## The waveform of the step that begins on this cycle -/

theorem State.stepAhead_of_stepA {s : State} (hb : s.busy = true) (hlead : s.lead = 0) (hp : s.phase = .stepA) :
    s.stepAhead = slots s.cfg stepALevels := by
  have hdue : s.engineOp = some .stepA := State.engineOp_eq_some.2 (.inl ⟨hb, hlead, by rw [hp]; rfl⟩)
  simp only [State.stepAhead, hdue]

theorem State.stepAhead_of_stepB {s : State} {v : Byte} (hb : s.busy = true) (hlead : s.lead = 0) (hp : s.phase = .stepB)
    (hv : s.bufRead s.cursor.toNat = some v) : s.stepAhead = slots s.cfg (frame v) := by
  have hdue : s.engineOp = some .stepB := State.engineOp_eq_some.2 (.inl ⟨hb, hlead, by rw [hp]; rfl⟩)
  simp only [State.stepAhead, hdue, hv, Option.elim_some]

theorem State.stepAhead_of_other_op {s : State} (hA : s.engineOp ≠ some .stepA) (hB : s.engineOp ≠ some .stepB) : s.stepAhead = [] := by
  unfold State.stepAhead
  split
  · next hdue => exact absurd hdue hA
  · next hdue => exact absurd hdue hB
  · rfl

/-- A phase's operation is due only inside a tick, at engine time, in that phase (41 R180). -/
theorem State.inTick_of_engineOp {s : State} {p : Phase} (hop : s.engineOp = some p.operation) :
    s.busy = true ∧ s.lead = 0 ∧ s.phase = p := by
  rcases State.engineOp_eq_some.1 hop with ⟨hb, hlead, -⟩ | ⟨-, -, -, htick⟩
  · exact ⟨hb, hlead, State.phase_of_engineOp hop hb⟩
  · exact absurd htick (Phase.operation_ne_tick p)

theorem State.engineOp_ne_step {s : State} (h : s.busy = false ∨ 0 < s.lead ∨ (s.phase ≠ .stepA ∧ s.phase ≠ .stepB)) :
    s.engineOp ≠ some .stepA ∧ s.engineOp ≠ some .stepB := by
  constructor <;> intro hop
  · obtain ⟨hb, hlead, hp⟩ := State.inTick_of_engineOp (p := .stepA) hop
    simp [hb, hlead, hp] at h
  · obtain ⟨hb, hlead, hp⟩ := State.inTick_of_engineOp (p := .stepB) hop
    simp [hb, hlead, hp] at h

/-- Settles O3: the reset appends the first cycles of the waveform of the step that is due, if any. -/
theorem resetCutsTheStepShort : Obligations.ResetCutsTheStepShort := by
  intro s after rest ha
  refine ⟨_, takeCycles after s.stepAhead, step_of_reset ha, rfl, rfl, rfl, fun hb hlead hp hafter => ?_,
    fun hb hlead hp hafter v hv => ?_, fun hnone => ?_⟩
  · rw [State.stepAhead_of_stepA hb hlead hp]
    exact ⟨wireCycles_takeCycles (by rwa [wireCycles_slots, stepALevels_length]), fun k hk => levelAt_takeCycles hk⟩
  · rw [State.stepAhead_of_stepB hb hlead hp hv]
    exact ⟨wireCycles_takeCycles (by rwa [wireCycles_slots, frame_length]), fun k hk => levelAt_takeCycles hk⟩
  · obtain ⟨hA, hB⟩ := State.engineOp_ne_step hnone
    rw [State.stepAhead_of_other_op hA hB]
    rfl

end Sys2Proof.Machine
end

section
/-! A transmission whose budget never covers Step A: every transition but reset leaves it waiting, with the line at its level (41 R194,
70 R336). -/

namespace Sys2Proof.Machine

/-! ## The line at its level -/

/-- From `s` to `t` some cycles pass, or none, with the line at its level in `s`. -/
def HoldsLevel (s t : State) : Prop := ∃ n, t.now = s.now + n ∧ t.wire = s.wire ++ idleSegs s.line n

theorem HoldsLevel.of_kept {s t : State} (hwire : t.wire = s.wire) (hnow : t.now = s.now) : HoldsLevel s t :=
  ⟨0, hnow, hwire.trans (List.append_nil _).symm⟩

theorem State.elapse_holdsLevel (s : State) (n : Nat) : HoldsLevel s (s.elapse n) := ⟨n, rfl, s.elapse_wire_eq_idleSegs n⟩

theorem State.passTime_holdsLevel (s : State) (n : Nat) : HoldsLevel s (s.passTime n) := s.elapse_holdsLevel _

theorem State.passToNext_holdsLevel (s : State) : HoldsLevel s s.passToNext := by
  unfold State.passToNext
  split
  · exact s.elapse_holdsLevel s.lead
  · exact s.elapse_holdsLevel s.toMark

/-! ## Starvation is kept -/

theorem State.Starved.quiet {s t : State} (h : s.Starved) (F : QuietFrame s t) : t.Starved where
  budget := by rw [F.cfg]; exact h.budget
  rem    := by rw [F.cfg, F.rem]; exact h.rem
  cursor := F.cursor.trans h.cursor
  phase  := by rw [F.phase]; exact h.phase

/-- A host command keeps the cursor or, if it is a start, sets it to 0. -/
theorem host_keeps_cursor_zero {s t : State} {i : Instr} (hc : s.cursor = 0) (hi : i.isHost = true) (he : exec i s = .next t) :
    t.cursor = 0 := by
  have begun : ∀ m, Begins i m → t.cursor = 0 := by
    intro m hb
    cases hpin : s.pinsel with
    | none =>
      rw [exec_of_begins_without_pin hb hpin] at he
      cases he
      exact hc
    | some pin =>
      rw [exec_of_begins hb hpin] at he
      cases he
      exact s.beginTransmission_cursor m pin
  rcases (host_frame hi he).line with ⟨hcursor, -⟩ | hstart | hsingle
  · exact hcursor.trans hc
  · exact begun .continuous (.inl ⟨hstart, rfl⟩)
  · exact begun .singleShot (.inr ⟨hsingle, rfl⟩)

theorem State.Starved.host {s t : State} {i : Instr} (h : s.Starved) (hi : i.isHost = true) (he : exec i s = .next t) : t.Starved :=
  have K := host_keeps hi he
  { budget := by rw [K.cfg]; exact h.budget
    rem    := by rw [K.cfg, K.rem]; exact h.rem
    cursor := host_keeps_cursor_zero h.cursor hi he
    phase  := by rw [K.phase]; exact h.phase }

/-- SELECT chooses RETURN, since the budget does not cover Step A; the tick ends, and the next one begins, without a step. -/
theorem State.Starved.engine {s t : State} {i : Instr} (h : s.Starved) (hi : s.engineOp = some i) (he : exec i s = .next t) :
    t.Starved ∧ HoldsLevel s t := by
  rcases State.engineOp_eq_some.1 hi with ⟨-, -, rfl⟩ | ⟨-, -, -, rfl⟩
  · rcases h.phase with hp | hp <;> rw [hp] at he <;> cases he
    · have hshort : ¬ costA ≤ s.rem := Nat.not_le.2 (Nat.lt_of_le_of_lt h.rem h.budget)
      exact ⟨⟨h.budget, h.rem, h.cursor, .inr (by rw [if_pos h.cursor, if_neg hshort])⟩, .of_kept rfl rfl⟩
    · exact ⟨⟨h.budget, h.rem, h.cursor, .inl rfl⟩, .of_kept rfl rfl⟩
  · cases he
    exact ⟨⟨h.budget, Nat.le_refl _, h.cursor, .inl rfl⟩, .of_kept rfl rfl⟩

/-- By the kinds of transition; taking an entry off the agenda changes nothing that starvation or the wire depends on. -/
theorem State.Starved.step {s t : State} (h : s.Starved) (hstep : step s = .next t) (hreset : s.resetNext = false) :
    t.Starved ∧ HoldsLevel s t := by
  have htaken := fun rest => h.quiet (s.withAgenda_quiet rest)
  rcases step_cases hstep with ⟨i, ⟨hi, -⟩, he | ⟨rest, -, he⟩⟩ | ⟨w, i, rest, -, hdec, -, he⟩ | ⟨w, r, rest, -, -, rfl⟩ | ⟨-, -, rfl⟩ |
    ⟨e, rest, -, -, rfl⟩ | ⟨rest, -, -, rfl⟩ | ⟨n, rest, -, rfl⟩ | ⟨n, rest, ha, -⟩
  · exact h.engine hi he
  · exact (htaken rest).engine hi he
  · obtain ⟨hwire, hnow⟩ := host_keeps_wire_and_now (decode_isHost hdec) he
    exact ⟨(htaken rest).host (decode_isHost hdec) he, .of_kept hwire hnow⟩
  · exact ⟨(htaken rest).quiet (State.raiseFault_quiet _ _), .of_kept rfl rfl⟩
  · exact ⟨h.quiet s.passToNext_quiet, s.passToNext_holdsLevel⟩
  · exact ⟨htaken rest, .of_kept rfl rfl⟩
  · exact ⟨(htaken rest).quiet (State.takeMark_quiet _), .of_kept rfl rfl⟩
  · exact ⟨(htaken rest).quiet (State.elapse_quiet _ _ _), (s.withAgenda rest).passTime_holdsLevel n⟩
  · simp [State.resetNext, ha] at hreset

/-- Settles O42: neither phase of a starved transmission stands for a step. -/
theorem starvedTransmissionNeverEmits : Obligations.StarvedTransmissionNeverEmits := by
  intro s t hs hstep hreset
  have hphase : s.phase ≠ .stepA ∧ s.phase ≠ .stepB := by rcases hs.phase with hp | hp <;> simp [hp]
  obtain ⟨hA, hB⟩ := State.engineOp_ne_step (.inr (.inr hphase))
  obtain ⟨ht, hlevel⟩ := hs.step hstep hreset
  exact ⟨ht, hA, hB, hlevel⟩

end Sys2Proof.Machine
end
